-- ==== Sys2Proof/Word.lean ====
section
/-! DEFINITION. The word types of CRISP-8 CORE (00_scope.md R10): all values are unsigned. -/

namespace Sys2Proof

/-- A byte, 0..255. -/
abbrev Byte := BitVec 8

/-- A 16-bit word: an instruction word, pc, I, a call-stack entry, the key latch. -/
abbrev Word := BitVec 16

/-- A 4-bit field of an instruction word (30_encoding.md R68). -/
abbrev Nibble := BitVec 4

/-- A register number, the x or y field (10_state.md R20). -/
abbrev Reg := Nibble

end Sys2Proof
end

