-- ==== Sys2Proof/Syntax.lean ====
section
/-! DEFINITION. The 34 instructions of 30_encoding.md R72, one constructor a row of spec/opcode_table.json. -/

namespace Sys2Proof

/-- An instruction with its operand fields (R68, R71). `x`, `y` are register numbers, `nn` a byte, `n` a nibble.
`nnn` is an address: like pc and I it is a 16-bit word that holds a 12-bit value (10_state.md R23, R24), and
WellFormed says that it does. `shr` and `shl` keep the y field that they do not read (D11), so that no bit of a
word is lost. -/
inductive Instr where
  /-- 00E0 -/
  | cls
  /-- 00EE -/
  | ret
  /-- 1NNN -/
  | jp (nnn : Word)
  /-- 2NNN -/
  | call (nnn : Word)
  /-- 3XNN -/
  | seByte (x : Reg) (nn : Byte)
  /-- 4XNN -/
  | sneByte (x : Reg) (nn : Byte)
  /-- 5XY0 -/
  | seReg (x y : Reg)
  /-- 6XNN -/
  | ldByte (x : Reg) (nn : Byte)
  /-- 7XNN -/
  | addByte (x : Reg) (nn : Byte)
  /-- 8XY0 -/
  | ldReg (x y : Reg)
  /-- 8XY1 -/
  | orReg (x y : Reg)
  /-- 8XY2 -/
  | andReg (x y : Reg)
  /-- 8XY3 -/
  | xorReg (x y : Reg)
  /-- 8XY4 -/
  | addReg (x y : Reg)
  /-- 8XY5 -/
  | sub (x y : Reg)
  /-- 8XY6 -/
  | shr (x y : Reg)
  /-- 8XY7 -/
  | subn (x y : Reg)
  /-- 8XYE -/
  | shl (x y : Reg)
  /-- 9XY0 -/
  | sneReg (x y : Reg)
  /-- ANNN -/
  | ldI (nnn : Word)
  /-- BNNN -/
  | jpV0 (nnn : Word)
  /-- CXNN -/
  | rnd (x : Reg) (nn : Byte)
  /-- DXYN -/
  | drw (x y : Reg) (n : Nibble)
  /-- EX9E -/
  | skp (x : Reg)
  /-- EXA1 -/
  | sknp (x : Reg)
  /-- FX07 -/
  | ldVxDt (x : Reg)
  /-- FX0A -/
  | ldVxK (x : Reg)
  /-- FX15 -/
  | ldDtVx (x : Reg)
  /-- FX18 -/
  | ldStVx (x : Reg)
  /-- FX1E -/
  | addIVx (x : Reg)
  /-- FX29 -/
  | ldFVx (x : Reg)
  /-- FX33 -/
  | ldBVx (x : Reg)
  /-- FX55 -/
  | ldMemVx (x : Reg)
  /-- FX65 -/
  | ldVxMem (x : Reg)
deriving DecidableEq, Repr

end Sys2Proof
end

