-- ==== Sys2Proof/WellFormed.lean ====
section
/-! DEFINITION. When an instruction term is one that a 16-bit word can carry. -/

namespace Sys2Proof

/-- An address operand is "a 12-bit address" (30_encoding.md R68, R70). -/
def addrOperandOk (nnn : Word) : Bool := decide (nnn.toNat < 0x1000)

/-- Every x, y, n and nn is legal (R71: "No register field is ever invalid"), so the one check is the width of an
address operand, in the four instructions that have one. -/
def Instr.wf : Instr → Bool
  | .jp nnn => addrOperandOk nnn
  | .call nnn => addrOperandOk nnn
  | .ldI nnn => addrOperandOk nnn
  | .jpV0 nnn => addrOperandOk nnn
  | .cls | .ret => true
  | .seByte _ _ | .sneByte _ _ | .ldByte _ _ | .addByte _ _ | .rnd _ _ => true
  | .seReg _ _ | .sneReg _ _ | .ldReg _ _ | .orReg _ _ | .andReg _ _ | .xorReg _ _ => true
  | .addReg _ _ | .sub _ _ | .shr _ _ | .subn _ _ | .shl _ _ => true
  | .drw _ _ _ => true
  | .skp _ | .sknp _ | .ldVxDt _ | .ldVxK _ | .ldDtVx _ | .ldStVx _ => true
  | .addIVx _ | .ldFVx _ | .ldBVx _ | .ldMemVx _ | .ldVxMem _ => true

end Sys2Proof
end

