-- ==== Sys2Proof/Decode.lean ====
section
/-! DEFINITION. The decoder and, after it, the encoder, both written from the fields of 30_encoding.md R68, the
formats of R69 and the opcode map of R72. -/

namespace Sys2Proof

/-! ## Fields (R68) -/

/-- op = w[15:12] -/
def fieldOp (w : Word) : Nibble := w.extractLsb' 12 4
/-- x = w[11:8] -/
def fieldX (w : Word) : Reg := w.extractLsb' 8 4
/-- y = w[7:4] -/
def fieldY (w : Word) : Reg := w.extractLsb' 4 4
/-- n = w[3:0] -/
def fieldN (w : Word) : Nibble := w.extractLsb' 0 4
/-- nn = w[7:0] -/
def fieldNN (w : Word) : Byte := w.extractLsb' 0 8
/-- nnn = w[11:0], as a 16-bit word -/
def fieldNNN (w : Word) : Word := w &&& 0x0FFF

/-! ## The opcode map (R72) -/

/-- One row of R72: a word `w` is the row's instruction when `(w & mask) = pattern`. -/
structure OpcodeRow where
  /-- The mnemonic id of the row. -/
  mnemonic : String
  mask : Word
  pattern : Word
  /-- The row's instruction, from the fields of the word. -/
  build : Word → Instr

/-- A row that takes only nnn (format ADDR). -/
def rowAddr (mnemonic : String) (pattern : Word) (c : Word → Instr) : OpcodeRow :=
  { mnemonic, mask := 0xF000, pattern, build := fun w => c (fieldNNN w) }

/-- A row that takes x and nn (format XNN). -/
def rowXNN (mnemonic : String) (pattern : Word) (c : Reg → Byte → Instr) : OpcodeRow :=
  { mnemonic, mask := 0xF000, pattern, build := fun w => c (fieldX w) (fieldNN w) }

/-- A row that takes x and y under a fixed low nibble (format XYS). -/
def rowXYS (mnemonic : String) (pattern : Word) (c : Reg → Reg → Instr) : OpcodeRow :=
  { mnemonic, mask := 0xF00F, pattern, build := fun w => c (fieldX w) (fieldY w) }

/-- A row that takes x under a fixed low byte (format XS). -/
def rowXS (mnemonic : String) (pattern : Word) (c : Reg → Instr) : OpcodeRow :=
  { mnemonic, mask := 0xF0FF, pattern, build := fun w => c (fieldX w) }

/-- Rows 1 to 9 of R72. -/
def rowsLow : List OpcodeRow :=
  [ { mnemonic := "CLS", mask := 0xFFFF, pattern := 0x00E0, build := fun _ => .cls },
    { mnemonic := "RET", mask := 0xFFFF, pattern := 0x00EE, build := fun _ => .ret },
    rowAddr "JP" 0x1000 .jp,
    rowAddr "CALL" 0x2000 .call,
    rowXNN "SE_BYTE" 0x3000 .seByte,
    rowXNN "SNE_BYTE" 0x4000 .sneByte,
    rowXYS "SE_REG" 0x5000 .seReg,
    rowXNN "LD_BYTE" 0x6000 .ldByte,
    rowXNN "ADD_BYTE" 0x7000 .addByte ]

/-- Rows 10 to 18 of R72: family 8, its low nibbles as R73 assigns them. -/
def rowsAlu : List OpcodeRow :=
  [ rowXYS "LD_REG" 0x8000 .ldReg,
    rowXYS "OR" 0x8001 .orReg,
    rowXYS "AND" 0x8002 .andReg,
    rowXYS "XOR" 0x8003 .xorReg,
    rowXYS "ADD_REG" 0x8004 .addReg,
    rowXYS "SUB" 0x8005 .sub,
    rowXYS "SHR" 0x8006 .shr,
    rowXYS "SUBN" 0x8007 .subn,
    rowXYS "SHL" 0x800E .shl ]

/-- Rows 19 to 23 of R72. -/
def rowsHigh : List OpcodeRow :=
  [ rowXYS "SNE_REG" 0x9000 .sneReg,
    rowAddr "LD_I" 0xA000 .ldI,
    rowAddr "JP_V0" 0xB000 .jpV0,
    rowXNN "RND" 0xC000 .rnd,
    { mnemonic := "DRW", mask := 0xF000, pattern := 0xD000,
      build := fun w => .drw (fieldX w) (fieldY w) (fieldN w) } ]

/-- Rows 24 to 34 of R72: families E and F (R74). -/
def rowsEF : List OpcodeRow :=
  [ rowXS "SKP" 0xE09E .skp,
    rowXS "SKNP" 0xE0A1 .sknp,
    rowXS "LD_VX_DT" 0xF007 .ldVxDt,
    rowXS "LD_VX_K" 0xF00A .ldVxK,
    rowXS "LD_DT_VX" 0xF015 .ldDtVx,
    rowXS "LD_ST_VX" 0xF018 .ldStVx,
    rowXS "ADD_I_VX" 0xF01E .addIVx,
    rowXS "LD_F_VX" 0xF029 .ldFVx,
    rowXS "LD_B_VX" 0xF033 .ldBVx,
    rowXS "LD_MEM_VX" 0xF055 .ldMemVx,
    rowXS "LD_VX_MEM" 0xF065 .ldVxMem ]

/-- The 34 rows of R72, in the source's order. -/
def opcodeRows : List OpcodeRow := rowsLow ++ rowsAlu ++ rowsHigh ++ rowsEF

/-- R72's match of a word against a row. -/
def OpcodeRow.hits (r : OpcodeRow) (w : Word) : Bool := w &&& r.mask == r.pattern

/-- `Decode(w)` (40_cycle.md R86): the instruction of the unique row that matches, `none` for `Unknown` (R76). -/
def decode (w : Word) : Option Instr :=
  (opcodeRows.find? (fun r => r.hits w)).map (fun r => r.build w)

/-- Why the bytes at hand are no instruction. -/
inductive Reject where
  /-- The word matches no row (R76). -/
  | unknownInstruction (w : Word)
  /-- Fewer than two bytes: not a whole instruction word (R67). -/
  | truncated
deriving DecidableEq, Repr

/-- `(high << 8) | low`: the word of two bytes, the byte at the lower address first (20_memory.md R56). -/
def joinBytes (high low : Byte) : Word := (high.setWidth 16 <<< 8) ||| low.setWidth 16

/-- Decoding a byte sequence: the first instruction and the bytes after it. An instruction word is big-endian
(20_memory.md R56) and always two bytes long (R67). -/
def decodeBytes : List Byte → Except Reject (Instr × List Byte)
  | hi :: lo :: rest =>
    match decode (joinBytes hi lo) with
    | some i => .ok (i, rest)
    | none => .error (.unknownInstruction (joinBytes hi lo))
  | [_] => .error .truncated
  | [] => .error .truncated

/-! ## The encoder (R69, R72) -/

/-- Format ADDR: op[15:12] nnn[11:0] -/
def packAddr (op : Nibble) (nnn : Word) : Word := (op.setWidth 16 <<< 12) ||| (nnn &&& 0x0FFF)

/-- Formats XNN and XS: op[15:12] x[11:8] nn[7:0], where XS fixes the low byte. -/
def packXNN (op : Nibble) (x : Reg) (nn : Byte) : Word :=
  (op.setWidth 16 <<< 12) ||| (x.setWidth 16 <<< 8) ||| nn.setWidth 16

/-- Formats XYN and XYS: op[15:12] x[11:8] y[7:4] n[3:0], where XYS fixes the low nibble. -/
def packXYN (op : Nibble) (x y : Reg) (n : Nibble) : Word :=
  (op.setWidth 16 <<< 12) ||| (x.setWidth 16 <<< 8) ||| (y.setWidth 16 <<< 4) ||| n.setWidth 16

/-- The instruction word of an instruction. -/
def encode : Instr → Word
  | .cls => 0x00E0
  | .ret => 0x00EE
  | .jp nnn => packAddr 0x1 nnn
  | .call nnn => packAddr 0x2 nnn
  | .seByte x nn => packXNN 0x3 x nn
  | .sneByte x nn => packXNN 0x4 x nn
  | .seReg x y => packXYN 0x5 x y 0x0
  | .ldByte x nn => packXNN 0x6 x nn
  | .addByte x nn => packXNN 0x7 x nn
  | .ldReg x y => packXYN 0x8 x y 0x0
  | .orReg x y => packXYN 0x8 x y 0x1
  | .andReg x y => packXYN 0x8 x y 0x2
  | .xorReg x y => packXYN 0x8 x y 0x3
  | .addReg x y => packXYN 0x8 x y 0x4
  | .sub x y => packXYN 0x8 x y 0x5
  | .shr x y => packXYN 0x8 x y 0x6
  | .subn x y => packXYN 0x8 x y 0x7
  | .shl x y => packXYN 0x8 x y 0xE
  | .sneReg x y => packXYN 0x9 x y 0x0
  | .ldI nnn => packAddr 0xA nnn
  | .jpV0 nnn => packAddr 0xB nnn
  | .rnd x nn => packXNN 0xC x nn
  | .drw x y n => packXYN 0xD x y n
  | .skp x => packXNN 0xE x 0x9E
  | .sknp x => packXNN 0xE x 0xA1
  | .ldVxDt x => packXNN 0xF x 0x07
  | .ldVxK x => packXNN 0xF x 0x0A
  | .ldDtVx x => packXNN 0xF x 0x15
  | .ldStVx x => packXNN 0xF x 0x18
  | .addIVx x => packXNN 0xF x 0x1E
  | .ldFVx x => packXNN 0xF x 0x29
  | .ldBVx x => packXNN 0xF x 0x33
  | .ldMemVx x => packXNN 0xF x 0x55
  | .ldVxMem x => packXNN 0xF x 0x65

/-- The high byte of a word, stored at the lower address (20_memory.md R56). -/
def highByte (w : Word) : Byte := w.extractLsb' 8 8

/-- The low byte of a word, stored at the higher address. -/
def lowByte (w : Word) : Byte := w.extractLsb' 0 8

/-- The two bytes of a word as memory holds them. -/
def wordBytes (w : Word) : List Byte := [highByte w, lowByte w]

/-- The word of a table row: its low `nbits` bits, every bit above them zero. -/
def tableWord (nbits w : Nat) : Word := BitVec.ofNat 16 (w % 2 ^ nbits)

/-- What the decoder reads from the bytes of a word given as the opcode table numbers its bits. Every instruction
is one 16-bit word, so bit 0 is the least significant bit of that word. -/
def decodeTableWord (nbits w : Nat) : Option Instr :=
  match decodeBytes (wordBytes (tableWord nbits w)) with
  | .ok (i, _) => some i
  | .error _ => none

end Sys2Proof
end

