-- ==== Sys2Proof/Config.lean ====
section
/-! DEFINITION. The constants of the hardware (00_scope.md R7), the type of its two parameters, and its one
free value. The parameters' DEFAULT values are in Machine/Font.lean. -/

namespace Sys2Proof

/-- MEM_SIZE: 4096 bytes, addresses 0x000-0xFFF. -/
abbrev memSize : Nat := 4096

/-- PROG_BASE: where a ROM is loaded, and the reset value of pc. -/
abbrev progBase : Nat := 0x200

/-- PROG_MAX: the largest ROM, 4096 - 0x200 = 3584 bytes. -/
abbrev progMax : Nat := memSize - progBase

/-- STACK_DEPTH: 16 return addresses. -/
abbrev stackDepth : Nat := 16

/-- FB_W: 64 columns. -/
abbrev fbWidth : Nat := 64

/-- FB_H: 32 rows. -/
abbrev fbHeight : Nat := 32

/-- One font glyph: 5 bytes, one a row, top row first (10_state.md R38). -/
abbrev Glyph := Vector Byte 5

/-- The two parameters that R7 makes model arguments: FONT_BASE (92_eei_decisions.md D21) and FONT (D22). -/
structure Config where
  /-- FONT_BASE: the address of glyph 0. -/
  fontBase : Word
  /-- FONT: 16 glyphs of 5 bytes, 80 bytes. -/
  font : Vector Glyph 16
deriving DecidableEq, Repr

/-- The random byte of the n-th draw: a free value (10_state.md R45, D13: "any byte 0..255; no law").
It has no body, so nothing can be proved of its value. Log entry 1. -/
opaque Config.randomByte : Nat → Byte

end Sys2Proof
end

