-- ==== Sys2Proof/Machine/Font.lean ====
section
/-! DEFINITION. The default values of the two parameters (00_scope.md R7). They stand here, not in Config.lean, so
that a repair may mend them: the font bytes are supplied from general knowledge (93_implementation_defined.md G1). -/

namespace Sys2Proof

/-- Glyphs 0 to 7 of the table of 10_state.md R38. -/
def fontLow : Vector Glyph 8 :=
  #v[ #v[0xF0, 0x90, 0x90, 0x90, 0xF0],
      #v[0x20, 0x60, 0x20, 0x20, 0x70],
      #v[0xF0, 0x10, 0xF0, 0x80, 0xF0],
      #v[0xF0, 0x10, 0xF0, 0x10, 0xF0],
      #v[0x90, 0x90, 0xF0, 0x10, 0x10],
      #v[0xF0, 0x80, 0xF0, 0x10, 0xF0],
      #v[0xF0, 0x80, 0xF0, 0x90, 0xF0],
      #v[0xF0, 0x10, 0x20, 0x40, 0x40] ]

/-- Glyphs 8 to F of the table of 10_state.md R38. -/
def fontHigh : Vector Glyph 8 :=
  #v[ #v[0xF0, 0x90, 0xF0, 0x90, 0xF0],
      #v[0xF0, 0x90, 0xF0, 0x10, 0xF0],
      #v[0xF0, 0x90, 0xF0, 0x90, 0x90],
      #v[0xE0, 0x90, 0xE0, 0x90, 0xE0],
      #v[0xF0, 0x80, 0x80, 0x80, 0xF0],
      #v[0xE0, 0x90, 0x90, 0x90, 0xE0],
      #v[0xF0, 0x80, 0xF0, 0x80, 0xF0],
      #v[0xF0, 0x80, 0xF0, 0x80, 0x80] ]

/-- FONT_BASE = 0x050 (D21) and the standard CHIP-8 font (D22). Log entry 3. -/
def Config.default : Config := { fontBase := 0x050, font := fontLow ++ fontHigh }

end Sys2Proof
end

