-- ==== Sys2Proof/Machine/State.lean ====
section
/-! DEFINITION. The architectural state (10_state.md R20-R37), the reasons a step can stop, and the state after
reset. -/

namespace Sys2Proof.Machine

/-- The call stack: 16 entries of 16 bits (R27). -/
abbrev CallStack := Vector Word 16

/-- The framebuffer: 32 rows of 64 one-bit pixels (R30). Bit x of row y is fb[y][x], 1 a lit pixel. -/
abbrev Framebuffer := Vector (BitVec 64) 32

/-- Memory as cells in canonical form (Machine/Memory.lean): addresses strictly rising below 4096, no cell equal
to what an unlisted address reads as. -/
abbrev Memory := List Host.Cell

/-- The three fatal kinds (60_exceptions.md R136). -/
inductive FaultKind where
  /-- Code 0: no row of the opcode map matches (R137). -/
  | unknownInstruction
  /-- Code 1: 2NNN with a full call stack (R138). -/
  | stackOverflow
  /-- Code 2: 00EE with an empty call stack (R139). -/
  | stackUnderflow
deriving DecidableEq, Repr

/-- The fault record (R35): what is reported of a fatal error. -/
structure FaultRecord where
  kind : FaultKind
  /-- The instruction word. -/
  word : Word
  /-- The address the word was fetched from. -/
  fpc : BitVec 12
deriving DecidableEq, Repr

/-- The run status (R33). The fault record is held where it is meaningful, in the Halted value (R35; log entry 5). -/
inductive Status where
  | running
  | awaitingKey
  | halted (record : FaultRecord)
deriving DecidableEq, Repr

/-- Everything the spec gives the machine. -/
structure State where
  /-- V0..VF (R20, R21). -/
  v : Vector Byte 16
  /-- The index register I: 16 bits that hold a 12-bit value (R23). -/
  i : Word
  /-- The program counter: 16 bits that hold a 12-bit value (R24). -/
  pc : Word
  /-- The stack pointer: the number of occupied entries, 0..16 (R26). -/
  sp : Byte
  /-- The call stack (R27). -/
  stack : CallStack
  /-- The delay timer DT (R28). -/
  dt : Byte
  /-- The sound timer ST (R29). -/
  st : Byte
  /-- The framebuffer (R30). -/
  fb : Framebuffer
  /-- The 4096 bytes of memory (R31). -/
  mem : Memory
  /-- The input latch, driven by the host; bit k is key k (R32). -/
  keys : Word
  /-- The run status, with the fault record while halted (R33, R35). -/
  status : Status
  /-- wait_x: the x field of the FX0A that waits (R34). -/
  waitX : Reg
  /-- wait_prev: the latch as last sampled by the wait logic (R34). -/
  waitPrev : Word
  /-- load_open: a load is accepted (R42). -/
  loadOpen : Bool
  /-- The MODEL's own field: how many random bytes have been drawn (log entry 1). -/
  draws : Nat
  /-- The MODEL's own field: the parameters FONT_BASE and FONT of R7, which nothing writes (log entry 3). -/
  cfg : Config
deriving DecidableEq, Repr

/-- Why the MODEL stops where the spec gives no next state. The spec's own fatal errors are not here: taking one
is a next state in which status is Halted (40_cycle.md R89). -/
inductive Fault where
  /-- Raised by CALL and RET when sp is in 17..255, a value that "never occur[s]" (R26), so that the entry they
  would use is none of stack[0..15]. Safe: the model stops; no run from a legal state reaches it. Log entry 6. -/
  | noSuchStackEntry
deriving DecidableEq, Repr

/-- Why the model has no meaning for an instruction. -/
inductive Refusal where
  /-- Raised by exec's arm of an instruction without a meaning (no arm is one). Safe. -/
  | notModelled (mnemonic : String)
deriving DecidableEq, Repr

/-- What a meaning answers. -/
abbrev Result := Host.Outcome State Fault Refusal

/-- The machine right after reset (70_reset_and_hazards.md R156, 10_state.md R37), with the default parameters.
Memory lists nothing: an unlisted address reads as its reset byte. The spec resets neither the key latch, which the
host drives (0 here: DESIGN CHOICE, log entry 2), nor the random source (draws 0: DESIGN CHOICE, log entry 1). -/
def State.reset : State where
  v := Vector.replicate 16 0
  i := 0x000
  pc := 0x200
  sp := 0
  stack := Vector.replicate 16 0
  dt := 0
  st := 0
  fb := Vector.replicate 32 0
  mem := []
  keys := 0
  status := .running
  waitX := 0
  waitPrev := 0
  loadOpen := true
  draws := 0
  cfg := Config.default

end Sys2Proof.Machine
end

