-- ==== Sys2Proof/Machine/Memory.lean ====
section
/-! DEFINITION. The memory read/write unit (20_memory.md R50-R60): single bytes at 12-bit addresses. -/

namespace Sys2Proof.Machine

/-- The byte at address `a` after reset under the parameters `c` (R54, 70_reset_and_hazards.md R156): FONT byte j at
`(FONT_BASE + j) & 0xFFF`, 0x00 elsewhere. -/
def resetByte (c : Config) (a : Nat) : Byte :=
  let j := (a + memSize - c.fontBase.toNat % memSize) % memSize
  if h : j < 80 then (c.font[j / 5]'(by omega))[j % 5]'(by omega) else 0

/-- What an address that memory does not list reads as: its reset byte under the default parameters. -/
def Memory.unlisted (a : Nat) : Byte := resetByte Config.default a

/-- The byte at address `a` (below 4096). -/
def Memory.read : Memory → Nat → Byte
  | [], a => Memory.unlisted a
  | (a', b') :: rest, a => if a = a' then b' else Memory.read rest a

/-- One cell put before the cells of higher addresses, unless it says what an unlisted address reads as. -/
def Memory.cons (a : Nat) (b : Byte) (rest : Memory) : Memory :=
  if b = Memory.unlisted a then rest else (a, b) :: rest

/-- Byte `b` stored at address `a`, in canonical form. -/
def Memory.write : Memory → Nat → Byte → Memory
  | [], a, b => Memory.cons a b []
  | (a', b') :: rest, a, b =>
    if a < a' then Memory.cons a b ((a', b') :: rest)
    else if a = a' then Memory.cons a b rest
    else (a', b') :: Memory.write rest a b

/-- `MemRead(addr, 1)`: the byte at `addr & 0xFFF` (00_scope.md R12, R51). -/
def Memory.readAt (m : Memory) (addr : Nat) : Byte := m.read (addr % memSize)

/-- `MemWrite(addr, 1, b)`: byte `b` stored at `addr & 0xFFF` (00_scope.md R12, R51). -/
def Memory.writeAt (m : Memory) (addr : Nat) (b : Byte) : Memory := m.write (addr % memSize) b

/-- Bytes stored at addr, addr+1, ... in ascending order (R55, R60), each address masked (R51). -/
def Memory.writeBytes : Memory → Nat → List Byte → Memory
  | m, _, [] => m
  | m, addr, b :: bs => Memory.writeBytes (m.writeAt addr b) (addr + 1) bs

/-- The `n` bytes at addr, addr+1, ... (R55), each address masked (R51). -/
def Memory.readBytes (m : Memory) (addr n : Nat) : List Byte :=
  (List.range n).map (fun k => m.readAt (addr + k))

/-- The canonical form from address `lo` on: addresses strictly rising and below 4096, no cell equal to what an
unlisted address reads as. -/
def Memory.wfFrom : Nat → Memory → Bool
  | _, [] => true
  | lo, (a, b) :: rest =>
    decide (lo ≤ a) && decide (a < memSize) && (b != Memory.unlisted a) && Memory.wfFrom (a + 1) rest

/-- The canonical form, in which equal memories are equal lists. -/
def Memory.wf (m : Memory) : Bool := Memory.wfFrom 0 m

/-- The memory that `reset()` leaves under the parameters `c` (R156): no cell under the default ones. Irreducible, so
that no proof unfolds a walk over 4096 addresses by accident; Laws/Memory.lean says what it reads as. -/
@[irreducible] def Memory.resetImage (c : Config) : Memory :=
  (List.range memSize).filterMap
    (fun a => if resetByte c a = Memory.unlisted a then none else some (a, resetByte c a))

end Sys2Proof.Machine
end

