-- ==== Sys2Proof/Machine/Operands.lean ====
section
/-! DEFINITION. Operand forms: registers, immediates, addresses, key numbers, digits, glyph addresses. -/

namespace Sys2Proof.Machine

/-- `V[x]` read (00_scope.md R11, 10_state.md R20): no register is hard-wired. -/
def State.readV (s : State) (x : Reg) : Byte := s.v[x.toNat]

/-- `V[x] <- b`. -/
def State.writeV (s : State) (x : Reg) (b : Byte) : State := { s with v := s.v.set x.toNat b }

/-- VF, register 0xF (10_state.md R21). -/
def regVF : Reg := 0xF

/-- `value & 0xFFF`, the form of every value stored in pc or I (10_state.md R23, R24). -/
def low12 (w : Word) : Word := w &&& 0x0FFF

/-- `zext_16` of a byte (00_scope.md R10). -/
def zext16 (b : Byte) : Word := b.setWidth 16

/-- `V[x] & 0xF` as a key number or a glyph number: the low nibble (43_index_memory.md R119, 45_input_timer.md R129). -/
def lowNibble (b : Byte) : Nibble := b.extractLsb' 0 4

/-- `keys[k]` (10_state.md R32). -/
def State.keyDown (s : State) (k : Nibble) : Bool := s.keys.getLsbD k.toNat

/-- A key number as the byte that FX0A's wait writes, 0x00..0x0F (45_input_timer.md R132). -/
def keyByte (k : Nibble) : Byte := k.setWidth 8

/-- `FONT_BASE + 5 * d`, the address of glyph d (43_index_memory.md R119). -/
def glyphAddr (c : Config) (d : Nibble) : Word := c.fontBase + 5 * d.setWidth 16

/-- The three decimal digits of a byte, hundreds first (43_index_memory.md R120). -/
def bcdDigits (b : Byte) : List Byte :=
  [BitVec.ofNat 8 (b.toNat / 100), BitVec.ofNat 8 (b.toNat / 10 % 10), BitVec.ofNat 8 (b.toNat % 10)]

/-- V0..V[x] inclusive, in ascending order (43_index_memory.md R121). -/
def State.regsUpTo (s : State) (x : Reg) : List Byte := s.v.toList.take (x.toNat + 1)

/-- The register file with V[k] loaded from `addr + k` for the first `n` registers, ascending
(43_index_memory.md R122). -/
def loadRegs (m : Memory) (addr : Nat) : Nat → Vector Byte 16 → Vector Byte 16
  | 0, v => v
  | n + 1, v => (loadRegs m addr n v).setIfInBounds n (m.readAt (addr + n))

end Sys2Proof.Machine
end

