-- ==== Sys2Proof/Machine/Flags.lean ====
section
/-! DEFINITION. Every flag computation (42_alu.md R110-R116): VF is the only flag (10_state.md R22). -/

namespace Sys2Proof.Machine

/-- The byte that VF holds for a flag: 1 or 0. -/
def flagByte (c : Bool) : Byte := if c then 1 else 0

/-- The carry out of bit 7 of `a + b` (R110): `a + b > 255`. -/
def carryFlag (a b : Byte) : Bool := decide (a.toNat + b.toNat > 255)

/-- NOT borrow of `a - b` (R111, R113): `a >= b`. -/
def notBorrowFlag (a b : Byte) : Bool := decide (a.toNat ≥ b.toNat)

/-- The bit that a right shift by one shifts out (R112): bit 0. -/
def shrFlag (a : Byte) : Bool := a.getLsbD 0

/-- The bit that a left shift by one shifts out (R114): bit 7. -/
def shlFlag (a : Byte) : Bool := a.getLsbD 7

/-- The order of R103 for a flag instruction: the result to V[x], then the flag to VF. -/
def State.writeVThenFlag (s : State) (x : Reg) (result : Byte) (flag : Bool) : State :=
  (s.writeV x result).writeV regVF (flagByte flag)

end Sys2Proof.Machine
end

