-- ==== Sys2Proof/Machine/Ops.lean ====
section
/-! DEFINITION. The named operations over the state that the meanings share: pc, index, call stack, timers, memory,
waiting for a key, and taking a fault with the only way back from one. -/

namespace Sys2Proof.Machine

/-- `pc <- target`, stored as `target & 0xFFF` (10_state.md R24). -/
def State.setPc (s : State) (target : Word) : State := { s with pc := low12 target }

/-- The fetch advance, `pc <- pc + 2` (40_cycle.md R84). Every meaning starts with it: exec runs on the state whose
pc is still the fetch address, so that a fault can restore it. -/
def State.advance (s : State) : State := s.setPc (s.pc + 2)

/-- `skip()` if the condition holds: two more on the advanced pc (00_scope.md R14, 40_cycle.md R85). -/
def State.skipIf (s : State) (c : Bool) : State := if c then s.setPc (s.pc + 2) else s

/-- `I <- value`, stored as `value & 0xFFF` (10_state.md R23). -/
def State.setI (s : State) (value : Word) : State := { s with i := low12 value }

/-- `DT <- b` (10_state.md R28). -/
def State.setDt (s : State) (b : Byte) : State := { s with dt := b }

/-- `ST <- b` (10_state.md R29). -/
def State.setSt (s : State) (b : Byte) : State := { s with st := b }

/-- A new framebuffer (10_state.md R30). -/
def State.setFb (s : State) (fb : Framebuffer) : State := { s with fb := fb }

/-- Bytes stored from address `addr` on, ascending and masked (20_memory.md R55, R60). -/
def State.storeBytes (s : State) (addr : Nat) (bs : List Byte) : State :=
  { s with mem := s.mem.writeBytes addr bs }

/-- `stack[sp] <- pc`, then `sp <- sp + 1` (41_control_flow.md R96, 10_state.md R26). Called with sp below 16. -/
def State.push (s : State) : State :=
  { s with stack := s.stack.setIfInBounds s.sp.toNat s.pc, sp := s.sp + 1 }

/-- `stack[sp - 1]`, the entry a pop reads (10_state.md R26); none where there is no such entry. -/
def State.topEntry (s : State) : Option Word := s.stack[(s.sp - 1).toNat]?

/-- `sp <- sp - 1`, then `pc <- target` (41_control_flow.md R94). The entry keeps its value (10_state.md R27). -/
def State.popTo (s : State) (target : Word) : State := { s with sp := s.sp - 1 }.setPc target

/-- The random byte of the next draw, `Draw()` (10_state.md R45): a free value. -/
def State.randomByte (s : State) : Byte := Config.randomByte s.draws

/-- A draw has been made: the next one is another free value. -/
def State.countDraw (s : State) : State := { s with draws := s.draws + 1 }

/-- `(r & nn)`, the byte that CXNN writes for the draw `r` (42_alu.md R115). -/
def maskDraw (r nn : Byte) : Byte := r &&& nn

/-- FX0A enters the wait (45_input_timer.md R131). -/
def State.enterWait (s : State) (x : Reg) : State :=
  { s with waitX := x, waitPrev := s.keys, status := .awaitingKey }

/-- `load_open <- 0` (40_cycle.md R82). -/
def State.closeLoad (s : State) : State := { s with loadOpen := false }

/-- TAKING A FAULT, `raise Fault(kind, w, fpc)` (40_cycle.md R89, 60_exceptions.md R143): every write of the step
undone, status Halted, the record (kind, w, fpc). The state it is given is the `saved` state of R84: nothing of the
step has been written to it, and its pc is fpc. There is no vector, no saved register and no handler. -/
def State.takeFault (s : State) (kind : FaultKind) (w : Word) : State :=
  { s with status := .halted { kind := kind, word := w, fpc := s.pc.setWidth 12 } }

/-- THE RETURN from a fault: there is none but `reset()` (60_exceptions.md R144). Every piece of state to the value of
70_reset_and_hazards.md R156, under the machine's own parameters. The key latch and the random source are not the
core's (R156), so they stay. -/
def State.resetCore (s : State) : State where
  v := Vector.replicate 16 0
  i := 0x000
  pc := 0x200
  sp := 0
  stack := Vector.replicate 16 0
  dt := 0
  st := 0
  fb := Vector.replicate 32 0
  mem := Memory.resetImage s.cfg
  keys := s.keys
  status := .running
  waitX := 0
  waitPrev := 0
  loadOpen := true
  draws := s.draws
  cfg := s.cfg

end Sys2Proof.Machine
end

