-- ==== Sys2Proof/Machine/Fetch.lean ====
section
/-! DEFINITION. Fetching an instruction word (40_cycle.md R84, R91) and the awaiting-key step
(45_input_timer.md R132). -/

namespace Sys2Proof.Machine

/-- The word at `addr`, big-endian: its high byte at `addr`, its low byte at `addr + 1`, both addresses masked
(20_memory.md R56, R51). -/
def Memory.wordAt (m : Memory) (addr : Nat) : Word :=
  joinBytes (m.readAt addr) (m.readAt (addr + 1))

/-- The word that the cycle fetches, at pc (R84, R91). -/
def State.fetchWord (s : State) : Word := s.mem.wordAt s.pc.toNat

/-- `now & ~wait_prev`: the keys pressed since the last sample (R132). -/
def State.freshKeys (s : State) : Word := s.keys &&& ~~~s.waitPrev

/-- The lowest key number from `k` on, of the `n` that are left, whose bit is set. -/
def lowestKeyFrom (fresh : Word) (k : Nat) : Nat → Option Nibble
  | 0 => none
  | n + 1 => if fresh.getLsbD k then some (BitVec.ofNat 4 k) else lowestKeyFrom fresh (k + 1) n

/-- The lowest key number whose bit is set, none if no bit is (R132). -/
def lowestKey (fresh : Word) : Option Nibble := lowestKeyFrom fresh 0 16

/-- A step while awaiting a key (R132, 40_cycle.md R90): no fetch, pc stays. -/
def State.waitStep (s : State) : State :=
  match lowestKey s.freshKeys with
  | none => { s with waitPrev := s.keys }
  | some k => { s.writeV s.waitX (keyByte k) with status := .running }

/-- A step while halted changes nothing (40_cycle.md R83). -/
def State.haltedStep (s : State) : State := s

end Sys2Proof.Machine
end

