-- ==== Sys2Proof/Machine/Alu.lean ====
section
/-! DEFINITION. Register loads and the 8-bit ALU (42_alu.md R102-R116). Operands are read from the state before the
instruction; the result goes to V[x], then the flag to VF (R103). -/

namespace Sys2Proof.Machine

/-- LD Vx, nn (R104). -/
def execLdByte (x : Reg) (nn : Byte) (s : State) : Result := .next (s.advance.writeV x nn)

/-- ADD Vx, nn (R105): no flag. -/
def execAddByte (x : Reg) (nn : Byte) (s : State) : Result :=
  .next (s.advance.writeV x (s.readV x + nn))

/-- LD Vx, Vy (R106). -/
def execLdReg (x y : Reg) (s : State) : Result := .next (s.advance.writeV x (s.readV y))

/-- OR Vx, Vy (R107): VF is left alone. -/
def execOr (x y : Reg) (s : State) : Result :=
  .next (s.advance.writeV x (s.readV x ||| s.readV y))

/-- AND Vx, Vy (R108): VF is left alone. -/
def execAnd (x y : Reg) (s : State) : Result :=
  .next (s.advance.writeV x (s.readV x &&& s.readV y))

/-- XOR Vx, Vy (R109): VF is left alone. -/
def execXor (x y : Reg) (s : State) : Result :=
  .next (s.advance.writeV x (s.readV x ^^^ s.readV y))

/-- ADD Vx, Vy (R110): VF = carry. -/
def execAddReg (x y : Reg) (s : State) : Result :=
  .next (s.advance.writeVThenFlag x (s.readV x + s.readV y) (carryFlag (s.readV x) (s.readV y)))

/-- SUB Vx, Vy (R111): VX - VY, VF = NOT borrow. -/
def execSub (x y : Reg) (s : State) : Result :=
  .next (s.advance.writeVThenFlag x (s.readV x - s.readV y) (notBorrowFlag (s.readV x) (s.readV y)))

/-- SHR Vx (R112): the y field is not read; VF = the bit shifted out. -/
def execShr (x _y : Reg) (s : State) : Result :=
  .next (s.advance.writeVThenFlag x (s.readV x >>> 1) (shrFlag (s.readV x)))

/-- SUBN Vx, Vy (R113): VY - VX, VF = NOT borrow. -/
def execSubn (x y : Reg) (s : State) : Result :=
  .next (s.advance.writeVThenFlag x (s.readV y - s.readV x) (notBorrowFlag (s.readV y) (s.readV x)))

/-- SHL Vx (R114): the y field is not read; VF = the bit shifted out. -/
def execShl (x _y : Reg) (s : State) : Result :=
  .next (s.advance.writeVThenFlag x (s.readV x <<< 1) (shlFlag (s.readV x)))

/-- RND Vx, nn (R115): the draw is a free value. -/
def execRnd (x : Reg) (nn : Byte) (s : State) : Result :=
  .next (s.advance.countDraw.writeV x (maskDraw s.randomByte nn))

end Sys2Proof.Machine
end

