-- ==== Sys2Proof/Machine/Control.lean ====
section
/-! DEFINITION. Control transfer (41_control_flow.md R94-R101). -/

namespace Sys2Proof.Machine

/-- RET (R94). -/
def execRet (s : State) : Result :=
  if s.sp = 0 then .next (s.takeFault .stackUnderflow (encode .ret))
  else
    match s.topEntry with
    | some target => .next (s.advance.popTo target)
    | none => .fault .noSuchStackEntry

/-- JP (R95). -/
def execJp (nnn : Word) (s : State) : Result := .next (s.advance.setPc nnn)

/-- CALL (R96). It pushes the advanced pc. -/
def execCall (nnn : Word) (s : State) : Result :=
  if s.sp = 16 then .next (s.takeFault .stackOverflow (encode (.call nnn)))
  else if s.sp.toNat < 16 then .next (s.advance.push.setPc nnn)
  else .fault .noSuchStackEntry

/-- SE Vx, nn (R97). -/
def execSeByte (x : Reg) (nn : Byte) (s : State) : Result :=
  .next (s.advance.skipIf (s.readV x == nn))

/-- SNE Vx, nn (R98). -/
def execSneByte (x : Reg) (nn : Byte) (s : State) : Result :=
  .next (s.advance.skipIf (s.readV x != nn))

/-- SE Vx, Vy (R99). -/
def execSeReg (x y : Reg) (s : State) : Result :=
  .next (s.advance.skipIf (s.readV x == s.readV y))

/-- SNE Vx, Vy (R100). -/
def execSneReg (x y : Reg) (s : State) : Result :=
  .next (s.advance.skipIf (s.readV x != s.readV y))

/-- JP V0, nnn (R101): the register is always V0. -/
def execJpV0 (nnn : Word) (s : State) : Result :=
  .next (s.advance.setPc (nnn + zext16 (s.readV 0)))

end Sys2Proof.Machine
end

