-- ==== Sys2Proof/Machine/Display.lean ====
section
/-! DEFINITION. The framebuffer engine (44_display.md R123-R128): clear, drawSprite, pixelAt. -/

namespace Sys2Proof.Machine

/-- `clear()`: all pixels 0 (R123, R128). -/
def Framebuffer.blank : Framebuffer := Vector.replicate 32 0

/-- `pixelAt(x, y)`: the pixel at column `x mod 64`, row `y mod 32` (R128, 10_state.md R39, R47). -/
def Framebuffer.pixelAt (fb : Framebuffer) (x y : Nat) : Bool := fb[y % 32].getLsbD (x % 64)

/-- The pixel at column `x mod 64`, row `y mod 32` flipped (XOR 1). -/
def Framebuffer.flip (fb : Framebuffer) (x y : Nat) : Framebuffer :=
  fb.set (y % 32) (fb[y % 32] ^^^ BitVec.twoPow 64 (x % 64))

/-- `BitAt(b, c)` = b[7 - c]: the most significant bit is the leftmost pixel (00_scope.md R14, R125). -/
def bitAt (b : Byte) (c : Nat) : Bool := b.getLsbD (7 - c)

/-- The body of R124's pixel loop for column offset `c` of a row: a set bit flips its pixel, and a pixel that was
lit is a collision (R126). -/
def drawPixel (x0 y : Nat) (b : Byte) (acc : Framebuffer × Bool) (c : Nat) : Framebuffer × Bool :=
  if bitAt b c then (acc.1.flip (x0 + c) y, acc.2 || acc.1.pixelAt (x0 + c) y) else acc

/-- R124's loop over the 8 column offsets of one sprite row. -/
def drawRow (x0 y : Nat) (b : Byte) (acc : Framebuffer × Bool) : Framebuffer × Bool :=
  (List.range 8).foldl (drawPixel x0 y b) acc

/-- R124's loop over the sprite rows, the first at row `y`. -/
def drawRows (x0 : Nat) : Nat → List Byte → Framebuffer × Bool → Framebuffer × Bool
  | _, [], acc => acc
  | y, b :: bs, acc => drawRows x0 (y + 1) bs (drawRow x0 y b acc)

/-- `drawSprite(x, y, bytes)`: the new framebuffer, and whether a collision occurred (R128). -/
def drawSprite (fb : Framebuffer) (x y : Nat) (bytes : List Byte) : Framebuffer × Bool :=
  drawRows (x % 64) (y % 32) bytes (fb, false)

/-- CLS (R123): VF is not written. -/
def execCls (s : State) : Result := .next (s.advance.setFb Framebuffer.blank)

/-- The sprite of DXYN: the `n` bytes at I, each address masked (R124, R125). -/
def State.spriteBytes (s : State) (n : Nibble) : List Byte := s.mem.readBytes s.i.toNat n.toNat

/-- What DXYN draws: VX, VY, I and the sprite are read before VF is written (R124, R126). -/
def State.drawn (s : State) (x y : Reg) (n : Nibble) : Framebuffer × Bool :=
  drawSprite s.fb (s.readV x).toNat (s.readV y).toNat (s.spriteBytes n)

/-- DRW Vx, Vy, n (R124): VF written once, last, with the collision. -/
def execDrw (x y : Reg) (n : Nibble) (s : State) : Result :=
  .next ((s.advance.setFb (s.drawn x y n).1).writeV regVF (flagByte (s.drawn x y n).2))

end Sys2Proof.Machine
end

