-- ==== Sys2Proof/Machine/IndexMemory.lean ====
section
/-! DEFINITION. Index register and memory transfer (43_index_memory.md R117-R122). I is left alone by the three
transfers (D19). -/

namespace Sys2Proof.Machine

/-- LD I, nnn (R117). -/
def execLdI (nnn : Word) (s : State) : Result := .next (s.advance.setI nnn)

/-- ADD I, Vx (R118): VF is not written. -/
def execAddIVx (x : Reg) (s : State) : Result :=
  .next (s.advance.setI (s.i + zext16 (s.readV x)))

/-- LD F, Vx (R119): the low nibble of VX picks the glyph. -/
def execLdFVx (x : Reg) (s : State) : Result :=
  .next (s.advance.setI (glyphAddr s.cfg (lowNibble (s.readV x))))

/-- LD B, Vx (R120): hundreds, tens, ones at I, I+1, I+2. -/
def execLdBVx (x : Reg) (s : State) : Result :=
  .next (s.advance.storeBytes s.i.toNat (bcdDigits (s.readV x)))

/-- LD [I], Vx (R121): V0..VX stored from I on. -/
def execLdMemVx (x : Reg) (s : State) : Result :=
  .next (s.advance.storeBytes s.i.toNat (s.regsUpTo x))

/-- LD Vx, [I] (R122): V0..VX loaded from I on. -/
def execLdVxMem (x : Reg) (s : State) : Result :=
  .next { s.advance with v := loadRegs s.mem s.i.toNat (x.toNat + 1) s.v }

end Sys2Proof.Machine
end

