-- ==== Sys2Proof/Machine/KeyTimer.lean ====
section
/-! DEFINITION. Key input and timer instructions (45_input_timer.md R129-R135). -/

namespace Sys2Proof.Machine

/-- SKP Vx (R129): the key number is the low nibble of VX. -/
def execSkp (x : Reg) (s : State) : Result :=
  .next (s.advance.skipIf (s.keyDown (lowNibble (s.readV x))))

/-- SKNP Vx (R130). -/
def execSknp (x : Reg) (s : State) : Result :=
  .next (s.advance.skipIf (!s.keyDown (lowNibble (s.readV x))))

/-- LD Vx, DT (R133). -/
def execLdVxDt (x : Reg) (s : State) : Result := .next (s.advance.writeV x s.dt)

/-- LD Vx, K (R131): the wait starts, with pc at the address after FX0A; this step never ends it. -/
def execLdVxK (x : Reg) (s : State) : Result := .next (s.advance.enterWait x)

/-- LD DT, Vx (R134). -/
def execLdDtVx (x : Reg) (s : State) : Result := .next (s.advance.setDt (s.readV x))

/-- LD ST, Vx (R135). -/
def execLdStVx (x : Reg) (s : State) : Result := .next (s.advance.setSt (s.readV x))

end Sys2Proof.Machine
end

