-- ==== Sys2Proof/Machine/Cycle.lean ====
section
/-! DEFINITION. One fetch-decode-execute cycle (40_cycle.md R84-R89). -/

namespace Sys2Proof.Machine

/-- `Cycle()` on the `saved` state of R84: fetch, decode, and the instruction's meaning, or the UnknownInstruction
fault (R87, 30_encoding.md R76). The fetch advance is the meanings' first act (Machine/Ops.lean). -/
def cycle (s : State) : Result :=
  match decode s.fetchWord with
  | some i => exec i s
  | none => .next (s.takeFault .unknownInstruction s.fetchWord)

end Sys2Proof.Machine
end

