-- ==== Sys2Proof/Machine/Step.lean ====
section
/-! DEFINITION. One `step()` transaction (40_cycle.md R82). -/

namespace Sys2Proof.Machine

/-- `step()` (R82): load_open is cleared first, in every status, and no fault undoes that. What the host is told is
`State.stepResult` of the state after (Machine/Transactions.lean). -/
def step (s : State) : Host.Outcome State Fault Refusal :=
  match s.status with
  | .halted _ => .next s.closeLoad.haltedStep
  | .awaitingKey => .next s.closeLoad.waitStep
  | .running => cycle s.closeLoad

/-- `s` with an instruction word (as the opcode table numbers its bits) stored at pc, where the next step fetches it,
and with status Running, in which a step fetches (10_state.md R33). Log entry 7. -/
def State.withFetchWord (s : State) (nbits w : Nat) : State :=
  { s with mem := s.mem.writeBytes s.pc.toNat (wordBytes (tableWord nbits w)), status := .running }

end Sys2Proof.Machine
end

