-- ==== Sys2Proof/Machine/Transactions.lean ====
section
/-! DEFINITION. The core's interface to its host (10_state.md R40-R49): the transactions other than step, what each
gives back, and the read ports. -/

namespace Sys2Proof.Machine

/-- One timer's decrement: a timer at 0 stays 0 (60_exceptions.md R148). -/
def decrementTimer (b : Byte) : Byte := if b.toNat > 0 then b - 1 else b

/-- `tick()` (R148), in every status (R149). -/
def State.tick (s : State) : State :=
  { s with dt := decrementTimer s.dt, st := decrementTimer s.st }

/-- The host drives the input latch between transactions (10_state.md R32, R46). -/
def State.setKeys (s : State) (k : Word) : State := { s with keys := k }

/-- What a transaction gives back (10_state.md R43, R48). -/
inductive Response where
  /-- An instruction completed, a wait ended, or a ROM was loaded. -/
  | ok
  /-- The core is in, or has just entered, the FX0A wait. -/
  | awaitingKey
  /-- The step faulted, or the core was already halted: Fatal(kind, word, fpc). -/
  | fatal (record : FaultRecord)
  /-- The load was refused (60_exceptions.md R141). -/
  | loadError
  /-- reset, tick and a change of the latch return nothing. -/
  | nothing
deriving DecidableEq, Repr

/-- What `step()` returns, read off the state it leaves (40_cycle.md R93): Ok with Running, AwaitingKey with
AwaitingKey, Fatal with Halted. -/
def State.stepResult (s : State) : Response :=
  match s.status with
  | .running => .ok
  | .awaitingKey => .awaitingKey
  | .halted r => .fatal r

/-- A load is accepted (70_reset_and_hazards.md R158): load_open is 1 and the ROM fits. -/
def State.acceptsLoad (s : State) (rom : List Byte) : Bool :=
  s.loadOpen && decide (rom.length ≤ progMax)

/-- `load(rom)` (R158): the ROM at 0x200 and load_open cleared, or LoadError and no change. -/
def State.load (s : State) (rom : List Byte) : State × Response :=
  if s.acceptsLoad rom then
    ({ s with mem := s.mem.writeBytes progBase rom, loadOpen := false }, .ok)
  else (s, .loadError)

/-- What the host can ask of the core (R40). -/
inductive Transaction where
  | reset
  | load (rom : List Byte)
  | step
  | tick
  /-- A change of the input latch. -/
  | setKeys (k : Word)
  /-- A step and a tick requested at the same instant: the step first, then the tick (R40). -/
  | stepAndTick
deriving DecidableEq, Repr

/-- A step's outcome with the response the host gets and an act on the state after. -/
def afterStep (f : State → State) : Result → Host.Outcome (State × Response) Fault Refusal
  | .next t => .next (f t, t.stepResult)
  | .fault r => .fault r
  | .refused r => .refused r

/-- One transaction: the state it leaves and what it gives back. -/
def transact (t : Transaction) (s : State) : Host.Outcome (State × Response) Fault Refusal :=
  match t with
  | .reset => .next (s.resetCore, .nothing)
  | .load rom => .next (s.load rom)
  | .step => afterStep (fun s' => s') (step s)
  | .tick => .next (s.tick, .nothing)
  | .setKeys k => .next (s.setKeys k, .nothing)
  | .stepAndTick => afterStep State.tick (step s)

/-- A host schedule: transactions one after another (R40), with the responses in order. -/
def transactAll : List Transaction → State → Host.Outcome (State × List Response) Fault Refusal
  | [], s => .next (s, [])
  | t :: ts, s =>
    match transact t s with
    | .fault r => .fault r
    | .refused r => .refused r
    | .next (s', r) =>
      match transactAll ts s' with
      | .fault r => .fault r
      | .refused r => .refused r
      | .next (s'', rs) => .next (s'', r :: rs)

/-! ## Read ports (R47): functions of the state, so reading has no side effect -/

/-- `pixelAt(x, y)`: fb[y mod 32][x mod 64]. -/
def State.pixelAt (s : State) (x y : Nat) : Bool := s.fb.pixelAt x y

/-- `delay()`. -/
def State.delay (s : State) : Byte := s.dt

/-- `sound()`. -/
def State.sound (s : State) : Byte := s.st

/-- `sound_active`: ST > 0. -/
def State.soundActive (s : State) : Bool := decide (s.st.toNat > 0)

/-- The fault record, when halted. -/
def State.faultRecord (s : State) : Option FaultRecord :=
  match s.status with
  | .halted r => some r
  | .running => none
  | .awaitingKey => none

/-- The 2-bit code of a fault kind (60_exceptions.md R136). -/
def FaultKind.code : FaultKind → BitVec 2
  | .unknownInstruction => 0
  | .stackOverflow => 1
  | .stackUnderflow => 2

end Sys2Proof.Machine
end

