-- ==== Sys2Proof/Safety.lean ====
section
/-! DEFINITION. The terms that claims use: the parts of the state and what a frame is, legal states, and what the
status says of the rest of the state. -/

namespace Sys2Proof.Machine

/-! ## Frames -/

/-- The pieces of state. -/
inductive Part where
  | v | i | pc | sp | stack | dt | st | fb | mem | keys | status | waitX | waitPrev | loadOpen | draws | cfg
deriving DecidableEq, Repr

/-- Two states agree on a piece of state. Registers, pixels, stack entries and memory are compared one by one, memory
through the read of one byte at every address. -/
def agreeOn (s t : State) : Part → Prop
  | .v => ∀ r : Reg, t.readV r = s.readV r
  | .i => t.i = s.i
  | .pc => t.pc = s.pc
  | .sp => t.sp = s.sp
  | .stack => ∀ k : Fin 16, t.stack[k] = s.stack[k]
  | .dt => t.dt = s.dt
  | .st => t.st = s.st
  | .fb => ∀ x y : Nat, t.pixelAt x y = s.pixelAt x y
  | .mem => ∀ a : Nat, t.mem.readAt a = s.mem.readAt a
  | .keys => t.keys = s.keys
  | .status => t.status = s.status
  | .waitX => t.waitX = s.waitX
  | .waitPrev => t.waitPrev = s.waitPrev
  | .loadOpen => t.loadOpen = s.loadOpen
  | .draws => t.draws = s.draws
  | .cfg => t.cfg = s.cfg

/-- Every piece of state but the listed ones is the same in `t` as in `s`. -/
def onlyChanges (parts : List Part) (s t : State) : Prop := ∀ p : Part, p ∉ parts → agreeOn s t p

/-- The word `w` is the instruction `i`, in both directions. -/
def wordIs (i : Instr) (w : Word) : Prop := encode i = w ∧ decode w = some i

/-- `x << 8` of a register field, in the word. -/
def atX (x : Reg) : Word := x.setWidth 16 <<< 8

/-- `y << 4` of a register field, in the word. -/
def atY (y : Reg) : Word := y.setWidth 16 <<< 4

/-- The advanced pc, `(fpc + 2) & 0xFFF` (40_cycle.md R84). -/
def State.nextPc (s : State) : Word := (s.pc + 2) &&& 0x0FFF

/-- The pc after a skip, `(fpc + 4) & 0xFFF` (40_cycle.md R85). -/
def State.skipPc (s : State) : Word := (s.pc + 4) &&& 0x0FFF

/-- A next state with register `x` written to `b` and every other register as before, pc advanced, and nothing else
changed: the shape of a plain load or ALU result. -/
def writesOnly (x : Reg) (b : Byte) (s t : State) : Prop :=
  (∀ r, t.readV r = if r = x then b else s.readV r) ∧ t.pc = s.nextPc ∧ onlyChanges [.v, .pc] s t

/-- A next state with the result in register `x` and then the flag in VF (42_alu.md R103), pc advanced, and nothing
else changed. -/
def writesResultThenFlag (x : Reg) (result : Nat) (flag : Prop) [Decidable flag] (s t : State) : Prop :=
  (∀ r, (t.readV r).toNat = if r = 0xF then (if flag then 1 else 0) else if r = x then result else (s.readV r).toNat) ∧
  t.pc = s.nextPc ∧ onlyChanges [.v, .pc] s t

/-- A next state that differs in pc alone: a skip if the condition holds, the advance if not. -/
def skipsIff (c : Prop) [Decidable c] (s t : State) : Prop :=
  t.pc = (if c then s.skipPc else s.nextPc) ∧ onlyChanges [.pc] s t

/-- The set sprite bit of DXYN that lands on the pixel at column `px`, row `py` (44_display.md R124, R125): row r and
column offset c of the sprite are the pixel's distances from the start, modulo the buffer. -/
def State.spriteCovers (s : State) (x y : Reg) (n : Nibble) (px py : Nat) : Bool :=
  let c := (px % 64 + 64 - (s.readV x).toNat % 64) % 64
  let r := (py % 32 + 32 - (s.readV y).toNat % 32) % 32
  decide (r < n.toNat) && decide (c < 8) && (s.mem.readAt (s.i.toNat + r)).getLsbD (7 - c)

/-! ## Legal states -/

/-- What the spec says of every state a run reaches: memory in canonical form; pc, I and every call-stack entry a
12-bit value (10_state.md R23, R24, R27); sp in 0..16 (R26). -/
structure State.Legal (s : State) : Prop where
  memory : s.mem.wf = true
  pc12 : s.pc.toNat < 0x1000
  i12 : s.i.toNat < 0x1000
  stack12 : ∀ k : Fin 16, s.stack[k].toNat < 0x1000
  spLe : s.sp.toNat ≤ 16

/-- A fault record that describes the state it was taken in (60_exceptions.md R136, R143): fpc is pc, the word is the
one at pc, and the kind's condition holds. -/
def FaultRecord.describes (r : FaultRecord) (s : State) : Prop :=
  r.fpc.toNat = s.pc.toNat ∧ r.word = s.fetchWord ∧
  match r.kind with
  | .unknownInstruction => decode r.word = none
  | .stackOverflow => s.sp = 16 ∧ ∃ nnn, decode r.word = some (.call nnn)
  | .stackUnderflow => s.sp = 0 ∧ decode r.word = some .ret

/-- What status says of the rest of the state: while halted the record describes the state, while awaiting a key the
word before pc is the FX0A that waits for V[wait_x] (45_input_timer.md R131), and in both loading is closed (R42). -/
def State.StatusOk (s : State) : Prop :=
  match s.status with
  | .running => True
  | .awaitingKey => s.loadOpen = false ∧
      ∃ fpc : Word, s.pc = (fpc + 2) &&& 0x0FFF ∧ decode (s.mem.wordAt fpc.toNat) = some (.ldVxK s.waitX)
  | .halted r => s.loadOpen = false ∧ r.describes s

/-- No fatal error has occurred. -/
def State.notHalted (s : State) : Prop := ∀ r, s.status ≠ .halted r

end Sys2Proof.Machine
end

