-- ==== Sys2Proof/Certificates/Slice0/Obligations.lean ====
section
/-! DEFINITION. The statements for the provers. Each says its rule of spec/ in the terms of Sys2Proof/Safety.lean and
of the spec's own arithmetic, not in the meanings' own operations. -/

open Sys2Proof Sys2Proof.Machine

/-! ## Control transfer (41_control_flow.md) -/

/-- R94: RET takes the top entry off the call stack into pc, or, on an empty stack, the StackUnderflow fault with
nothing else changed. The entry it read keeps its value (the stack is not among the changes). -/
def Obligations.RetPopsOrUnderflows : Prop :=
  ∀ s : State,
    wordIs .ret 0x00EE ∧
    (s.sp = 0 → exec .ret s =
      .next { s with status := .halted { kind := .stackUnderflow, word := 0x00EE, fpc := s.pc.setWidth 12 } }) ∧
    (∀ k : Fin 16, s.sp.toNat = k.val + 1 →
      ∃ t, exec .ret s = .next t ∧ t.sp.toNat = k.val ∧ t.pc = s.stack[k] &&& 0x0FFF ∧ onlyChanges [.sp, .pc] s t)

/-- R95: JP writes its address to pc and nothing else; any target is legal. -/
def Obligations.JpWritesPc : Prop :=
  ∀ (nnn : Word) (s : State), nnn.toNat < 0x1000 →
    wordIs (.jp nnn) (0x1000 ||| nnn) ∧
    ∃ t, exec (.jp nnn) s = .next t ∧ t.pc = nnn ∧ onlyChanges [.pc] s t

/-- R101: JP V0 writes nnn + V0, reduced to 12 bits, to pc and nothing else. -/
def Obligations.JpV0AddsV0 : Prop :=
  ∀ (nnn : Word) (s : State), nnn.toNat < 0x1000 →
    wordIs (.jpV0 nnn) (0xB000 ||| nnn) ∧
    ∃ t, exec (.jpV0 nnn) s = .next t ∧ t.pc.toNat = (nnn.toNat + (s.readV 0).toNat) % 4096 ∧ onlyChanges [.pc] s t

/-- R96, R138: CALL pushes the advanced pc and jumps, or, on a full stack, takes the StackOverflow fault with nothing
else changed. -/
def Obligations.CallPushesOrOverflows : Prop :=
  ∀ (nnn : Word) (s : State), nnn.toNat < 0x1000 →
    wordIs (.call nnn) (0x2000 ||| nnn) ∧
    (s.sp = 16 → exec (.call nnn) s =
      .next { s with status := .halted { kind := .stackOverflow, word := 0x2000 ||| nnn, fpc := s.pc.setWidth 12 } }) ∧
    (∀ k : Fin 16, s.sp.toNat = k.val →
      ∃ t, exec (.call nnn) s = .next t ∧ t.stack[k] = s.nextPc ∧ (∀ j : Fin 16, j ≠ k → t.stack[j] = s.stack[j]) ∧
        t.sp.toNat = k.val + 1 ∧ t.pc = nnn ∧ onlyChanges [.stack, .sp, .pc] s t)

/-- R97, R98: the skips that compare a register with a byte. -/
def Obligations.SkipOnByte : Prop :=
  ∀ (x : Reg) (nn : Byte) (s : State),
    wordIs (.seByte x nn) (0x3000 ||| atX x ||| nn.setWidth 16) ∧
    wordIs (.sneByte x nn) (0x4000 ||| atX x ||| nn.setWidth 16) ∧
    (∃ t, exec (.seByte x nn) s = .next t ∧ skipsIff (s.readV x = nn) s t) ∧
    (∃ t, exec (.sneByte x nn) s = .next t ∧ skipsIff (s.readV x ≠ nn) s t)

/-- R99, R100: the skips that compare two registers, and that a nonzero low nibble is no such instruction. -/
def Obligations.SkipOnRegisters : Prop :=
  ∀ (x y : Reg) (s : State),
    wordIs (.seReg x y) (0x5000 ||| atX x ||| atY y) ∧
    wordIs (.sneReg x y) (0x9000 ||| atX x ||| atY y) ∧
    (∀ n : Nibble, n ≠ 0 → decode (0x5000 ||| atX x ||| atY y ||| n.setWidth 16) = none ∧
      decode (0x9000 ||| atX x ||| atY y ||| n.setWidth 16) = none) ∧
    (∃ t, exec (.seReg x y) s = .next t ∧ skipsIff (s.readV x = s.readV y) s t) ∧
    (∃ t, exec (.sneReg x y) s = .next t ∧ skipsIff (s.readV x ≠ s.readV y) s t)

/-- L1-6 of 95_test_vectors.md, from R94 and R96: a CALL and then a RET come back to the word after the CALL, with the
call stack as deep as before. -/
def Obligations.CallThenRetComesBack : Prop :=
  ∀ (nnn : Word) (s : State), s.sp.toNat < 16 →
    ∃ t u, exec (.call nnn) s = .next t ∧ exec .ret t = .next u ∧ u.pc = s.nextPc ∧ u.sp = s.sp

/-- The model's own stop (log entry 6; no rule of the spec): with sp above 16, which R26 says never occurs, CALL and
RET stop. -/
def Obligations.SpAboveSixteenStops : Prop :=
  ∀ (nnn : Word) (s : State), 16 < s.sp.toNat →
    exec (.call nnn) s = .fault .noSuchStackEntry ∧ exec .ret s = .fault .noSuchStackEntry

/-! ## Register loads and the ALU (42_alu.md) -/

/-- R104, R106: the register loads. -/
def Obligations.LoadRegister : Prop :=
  ∀ (x y : Reg) (nn : Byte) (s : State),
    wordIs (.ldByte x nn) (0x6000 ||| atX x ||| nn.setWidth 16) ∧
    wordIs (.ldReg x y) (0x8000 ||| atX x ||| atY y) ∧
    (∃ t, exec (.ldByte x nn) s = .next t ∧ writesOnly x nn s t) ∧
    (∃ t, exec (.ldReg x y) s = .next t ∧ writesOnly x (s.readV y) s t)

/-- R105: ADD Vx, nn wraps modulo 256 and writes no flag. -/
def Obligations.AddByteWraps : Prop :=
  ∀ (x : Reg) (nn : Byte) (s : State),
    wordIs (.addByte x nn) (0x7000 ||| atX x ||| nn.setWidth 16) ∧
    ∃ t, exec (.addByte x nn) s = .next t ∧
      writesOnly x (BitVec.ofNat 8 (((s.readV x).toNat + nn.toNat) % 256)) s t

/-- R107, R108, R109: the logic operations, which leave VF alone unless it is the destination. -/
def Obligations.LogicWritesOnlyVx : Prop :=
  ∀ (x y : Reg) (s : State),
    wordIs (.orReg x y) (0x8001 ||| atX x ||| atY y) ∧
    wordIs (.andReg x y) (0x8002 ||| atX x ||| atY y) ∧
    wordIs (.xorReg x y) (0x8003 ||| atX x ||| atY y) ∧
    (∃ t, exec (.orReg x y) s = .next t ∧ writesOnly x (s.readV x ||| s.readV y) s t) ∧
    (∃ t, exec (.andReg x y) s = .next t ∧ writesOnly x (s.readV x &&& s.readV y) s t) ∧
    (∃ t, exec (.xorReg x y) s = .next t ∧ writesOnly x (s.readV x ^^^ s.readV y) s t)

/-- R110: ADD Vx, Vy, every x and y (VF among them). -/
def Obligations.AddRegCarry : Prop :=
  ∀ (x y : Reg) (s : State),
    wordIs (.addReg x y) (0x8004 ||| atX x ||| atY y) ∧
    ∃ t, exec (.addReg x y) s = .next t ∧
      writesResultThenFlag x (((s.readV x).toNat + (s.readV y).toNat) % 256)
        ((s.readV x).toNat + (s.readV y).toNat > 255) s t

/-- R111, R113: the two subtractions, every x and y (VF among them). -/
def Obligations.SubtractNotBorrow : Prop :=
  ∀ (x y : Reg) (s : State),
    wordIs (.sub x y) (0x8005 ||| atX x ||| atY y) ∧
    wordIs (.subn x y) (0x8007 ||| atX x ||| atY y) ∧
    (∃ t, exec (.sub x y) s = .next t ∧
      writesResultThenFlag x (((s.readV x).toNat + 256 - (s.readV y).toNat) % 256)
        ((s.readV x).toNat ≥ (s.readV y).toNat) s t) ∧
    (∃ t, exec (.subn x y) s = .next t ∧
      writesResultThenFlag x (((s.readV y).toNat + 256 - (s.readV x).toNat) % 256)
        ((s.readV y).toNat ≥ (s.readV x).toNat) s t)

/-- R112, R114: the two shifts by one, whatever the y field. -/
def Obligations.ShiftByOne : Prop :=
  ∀ (x y : Reg) (s : State),
    wordIs (.shr x y) (0x8006 ||| atX x ||| atY y) ∧
    wordIs (.shl x y) (0x800E ||| atX x ||| atY y) ∧
    (∃ t, exec (.shr x y) s = .next t ∧
      writesResultThenFlag x ((s.readV x).toNat / 2) ((s.readV x).toNat % 2 = 1) s t) ∧
    (∃ t, exec (.shl x y) s = .next t ∧
      writesResultThenFlag x (2 * (s.readV x).toNat % 256) ((s.readV x).toNat / 128 = 1) s t)

/-- R115: RND writes the drawn byte under the mask. That the draw is the free value Config.randomByte of a counter, and
that the counter advances, is the model's own (log entry 1); nothing rests on its value. -/
def Obligations.RndMasksTheDraw : Prop :=
  ∀ (x : Reg) (nn : Byte) (s : State),
    wordIs (.rnd x nn) (0xC000 ||| atX x ||| nn.setWidth 16) ∧
    ∃ t, exec (.rnd x nn) s = .next t ∧
      (∀ r, t.readV r = if r = x then Config.randomByte s.draws &&& nn else s.readV r) ∧ t.pc = s.nextPc ∧
      t.draws = s.draws + 1 ∧ onlyChanges [.v, .pc, .draws] s t

/-! ## Index register and memory transfer (43_index_memory.md) -/

/-- R117, R118, R119: the writers of I; FONT_BASE is the machine's parameter. -/
def Obligations.IndexWriters : Prop :=
  ∀ (nnn : Word) (x : Reg) (s : State), nnn.toNat < 0x1000 →
    wordIs (.ldI nnn) (0xA000 ||| nnn) ∧
    wordIs (.addIVx x) (0xF01E ||| atX x) ∧
    wordIs (.ldFVx x) (0xF029 ||| atX x) ∧
    (∃ t, exec (.ldI nnn) s = .next t ∧ t.i = nnn ∧ t.pc = s.nextPc ∧ onlyChanges [.i, .pc] s t) ∧
    (∃ t, exec (.addIVx x) s = .next t ∧ t.i.toNat = (s.i.toNat + (s.readV x).toNat) % 4096 ∧
      t.pc = s.nextPc ∧ onlyChanges [.i, .pc] s t) ∧
    (∃ t, exec (.ldFVx x) s = .next t ∧ t.i.toNat = (s.cfg.fontBase.toNat + 5 * ((s.readV x).toNat % 16)) % 4096 ∧
      t.pc = s.nextPc ∧ onlyChanges [.i, .pc] s t)

/-- R120: LD B stores the three digits, hundreds first, at I, I+1 and I+2 (masked), and no other byte. -/
def Obligations.BcdStoresThreeDigits : Prop :=
  ∀ (x : Reg) (s : State), s.mem.wf = true →
    wordIs (.ldBVx x) (0xF033 ||| atX x) ∧
    ∃ t, exec (.ldBVx x) s = .next t ∧
      (t.mem.readAt s.i.toNat).toNat = (s.readV x).toNat / 100 ∧
      (t.mem.readAt (s.i.toNat + 1)).toNat = (s.readV x).toNat / 10 % 10 ∧
      (t.mem.readAt (s.i.toNat + 2)).toNat = (s.readV x).toNat % 10 ∧
      (∀ a : Nat, (∀ k < 3, a % 4096 ≠ (s.i.toNat + k) % 4096) → t.mem.readAt a = s.mem.readAt a) ∧
      t.pc = s.nextPc ∧ onlyChanges [.mem, .pc] s t

/-- R121: LD [I] stores V0..VX at I, I+1, ... (masked), and no other byte; I stays. -/
def Obligations.StoreRegisters : Prop :=
  ∀ (x : Reg) (s : State), s.mem.wf = true →
    wordIs (.ldMemVx x) (0xF055 ||| atX x) ∧
    ∃ t, exec (.ldMemVx x) s = .next t ∧
      (∀ k : Reg, k.toNat ≤ x.toNat → t.mem.readAt (s.i.toNat + k.toNat) = s.readV k) ∧
      (∀ a : Nat, (∀ k ≤ x.toNat, a % 4096 ≠ (s.i.toNat + k) % 4096) → t.mem.readAt a = s.mem.readAt a) ∧
      t.pc = s.nextPc ∧ onlyChanges [.mem, .pc] s t

/-- R122: LD Vx, [I] loads V0..VX from I, I+1, ... (masked), and no other register; I stays. -/
def Obligations.LoadRegisters : Prop :=
  ∀ (x : Reg) (s : State),
    wordIs (.ldVxMem x) (0xF065 ||| atX x) ∧
    ∃ t, exec (.ldVxMem x) s = .next t ∧
      (∀ k : Reg, t.readV k = if k.toNat ≤ x.toNat then s.mem.readAt (s.i.toNat + k.toNat) else s.readV k) ∧
      t.pc = s.nextPc ∧ onlyChanges [.v, .pc] s t

/-- 20_memory.md R64 for FX55: registers stored over the next word are what the next fetch reads. -/
def Obligations.StoreSeenByNextFetch : Prop :=
  ∀ (x : Reg) (s : State), s.mem.wf = true → 1 ≤ x.toNat → s.i = s.nextPc →
    ∃ t, exec (.ldMemVx x) s = .next t ∧
      t.fetchWord.toNat = (s.readV 0).toNat * 256 + (s.readV 1).toNat

/-! ## Display (44_display.md) -/

/-- R123: CLS turns every pixel off and changes nothing else but pc. -/
def Obligations.ClsClearsEveryPixel : Prop :=
  ∀ s : State,
    wordIs .cls 0x00E0 ∧
    ∃ t, exec .cls s = .next t ∧ (∀ x y : Nat, t.pixelAt x y = false) ∧ t.pc = s.nextPc ∧ onlyChanges [.fb, .pc] s t

/-- R124, R125, R126: the pixel loop in closed form. Each pixel is XORed with the sprite bit that lands on it, and VF
is 1 exactly when a set sprite bit lands on a lit pixel. -/
def Obligations.DrwXorsAndCollides : Prop :=
  ∀ (x y : Reg) (n : Nibble) (s : State),
    wordIs (.drw x y n) (0xD000 ||| atX x ||| atY y ||| n.setWidth 16) ∧
    ∃ t, exec (.drw x y n) s = .next t ∧
      (∀ px py : Nat, t.pixelAt px py = (s.pixelAt px py ^^ s.spriteCovers x y n px py)) ∧
      (∀ r : Reg, r ≠ 0xF → t.readV r = s.readV r) ∧
      ((∃ px py : Nat, s.spriteCovers x y n px py = true ∧ s.pixelAt px py = true) → t.readV 0xF = 1) ∧
      ((∀ px py : Nat, s.spriteCovers x y n px py = true → s.pixelAt px py = false) → t.readV 0xF = 0) ∧
      t.pc = s.nextPc ∧ onlyChanges [.v, .fb, .pc] s t

/-- R127: the same DRW run twice, with VX and VY holding at the second what they held at the first, restores the
framebuffer. By R126 the second draw collides exactly when some set sprite bit landed on a pixel that was off before the
first; R127's sentence that any set bit is enough does not hold of a sprite drawn over lit pixels (log entry 9). -/
def Obligations.DrawTwiceRestores : Prop :=
  ∀ (x y : Reg) (n : Nibble) (s t : State), exec (.drw x y n) s = .next t →
    t.readV x = s.readV x → t.readV y = s.readV y →
    ∃ u, exec (.drw x y n) t = .next u ∧ (∀ px py : Nat, u.pixelAt px py = s.pixelAt px py) ∧
      ((∃ px py : Nat, s.spriteCovers x y n px py = true ∧ s.pixelAt px py = false) → u.readV 0xF = 1) ∧
      ((∀ px py : Nat, s.spriteCovers x y n px py = true → s.pixelAt px py = true) → u.readV 0xF = 0)

/-! ## Keys and timers (45_input_timer.md) -/

/-- R129, R130: the skips on a key; the key number is the low nibble of VX. -/
def Obligations.SkipOnKey : Prop :=
  ∀ (x : Reg) (s : State),
    wordIs (.skp x) (0xE09E ||| atX x) ∧
    wordIs (.sknp x) (0xE0A1 ||| atX x) ∧
    (∃ t, exec (.skp x) s = .next t ∧ skipsIff (s.keys.getLsbD ((s.readV x).toNat % 16) = true) s t) ∧
    (∃ t, exec (.sknp x) s = .next t ∧ skipsIff (s.keys.getLsbD ((s.readV x).toNat % 16) = false) s t)

/-- R131: FX0A enters the wait with the latch as it is, whatever key is held, and pc past it. -/
def Obligations.WaitKeyEnters : Prop :=
  ∀ (x : Reg) (s : State),
    wordIs (.ldVxK x) (0xF00A ||| atX x) ∧
    ∃ t, exec (.ldVxK x) s = .next t ∧ t.waitX = x ∧ t.waitPrev = s.keys ∧ t.status = .awaitingKey ∧
      t.stepResult = .awaitingKey ∧ t.pc = s.nextPc ∧ onlyChanges [.waitX, .waitPrev, .status, .pc] s t

/-- R132, R90: a step while awaiting a key. With no fresh key it remembers the latch; with fresh keys the lowest one is
written to V[wait_x] and the core runs on. It fetches nothing and pc stays. A tick during the wait counts. -/
def Obligations.AwaitingKeyStep : Prop :=
  ∀ s : State, s.status = .awaitingKey →
    (s.keys &&& ~~~s.waitPrev = 0 →
      step s = .next { s with waitPrev := s.keys, loadOpen := false } ∧
      transact .step s = .next ({ s with waitPrev := s.keys, loadOpen := false }, .awaitingKey)) ∧
    (∀ k : Nibble, (s.keys &&& ~~~s.waitPrev).getLsbD k.toNat = true →
      (∀ j < k.toNat, (s.keys &&& ~~~s.waitPrev).getLsbD j = false) →
      ∃ t, step s = .next t ∧ transact .step s = .next (t, .ok) ∧
        (∀ r, (t.readV r).toNat = if r = s.waitX then k.toNat else (s.readV r).toNat) ∧
        t.status = .running ∧ t.loadOpen = false ∧ onlyChanges [.v, .status, .loadOpen] s t) ∧
    (∃ t, transact .tick s = .next (t, .nothing) ∧ t.dt.toNat = s.dt.toNat - 1 ∧ t.st.toNat = s.st.toNat - 1 ∧
      onlyChanges [.dt, .st] s t)

/-- R133, R134, R135: the timer instructions. -/
def Obligations.TimerTransfers : Prop :=
  ∀ (x : Reg) (s : State),
    wordIs (.ldVxDt x) (0xF007 ||| atX x) ∧
    wordIs (.ldDtVx x) (0xF015 ||| atX x) ∧
    wordIs (.ldStVx x) (0xF018 ||| atX x) ∧
    (∃ t, exec (.ldVxDt x) s = .next t ∧ writesOnly x s.dt s t) ∧
    (∃ t, exec (.ldDtVx x) s = .next t ∧ t.dt = s.readV x ∧ t.pc = s.nextPc ∧ onlyChanges [.dt, .pc] s t) ∧
    (∃ t, exec (.ldStVx x) s = .next t ∧ t.st = s.readV x ∧ (t.soundActive = true ↔ s.readV x ≠ 0) ∧
      t.pc = s.nextPc ∧ onlyChanges [.st, .pc] s t)

/-! ## The cycle and its faults (40_cycle.md, 60_exceptions.md) -/

/-- A running step is the meaning of the word at pc, big-endian, on the state with loading closed; the meaning itself
moves pc past the word (the log says why: entry 8). From R82, R84, R86 and R87. -/
def Obligations.StepRunsDecoded : Prop :=
  ∀ (s : State) (i : Instr), s.status = .running →
    s.fetchWord.toNat = (s.mem.readAt s.pc.toNat).toNat * 256 + (s.mem.readAt (s.pc.toNat + 1)).toNat ∧
    (decode s.fetchWord = some i → step s = exec i { s with loadOpen := false })

/-- R91: the fetch wraps at the end of memory, and running off it is no fault. -/
def Obligations.FetchWraps : Prop :=
  ∀ s : State,
    (s.pc = 0xFFF →
      s.fetchWord.toNat = (s.mem.readAt 0xFFF).toNat * 256 + (s.mem.readAt 0x000).toNat ∧
      ∀ x nn, s.status = .running → decode s.fetchWord = some (.ldByte x nn) → ∃ t, step s = .next t ∧ t.pc = 0x001) ∧
    (s.pc = 0xFFE →
      s.fetchWord.toNat = (s.mem.readAt 0xFFE).toNat * 256 + (s.mem.readAt 0xFFF).toNat ∧
      ∀ x nn, s.status = .running → decode s.fetchWord = some (.ldByte x nn) → ∃ t, step s = .next t ∧ t.pc = 0x000)

/-- R76 at a step: a running step on a word that is no instruction takes the UnknownInstruction fault, with no other
effect than the closing of load (R82). -/
def Obligations.UnknownWordHalts : Prop :=
  ∀ s : State, s.status = .running → decode s.fetchWord = none →
    step s = .next { s with
      loadOpen := false
      status := .halted { kind := .unknownInstruction, word := s.fetchWord, fpc := s.pc.setWidth 12 } }

/-- R89: a step that faults undoes every write it made, pc included; only status, the record and load_open (R82) are
other than before, and the record names the word and its address. -/
def Obligations.FaultUndoesTheStep : Prop :=
  ∀ (s t : State) (r : FaultRecord), s.status = .running → step s = .next t → t.status = .halted r →
    t = { s with status := .halted r, loadOpen := false } ∧ r.word = s.fetchWord ∧ r.fpc = s.pc.setWidth 12 ∧
    transact .step s = .next (t, .fatal r)

/-- R136: the three kinds, their codes, and that a running step takes each exactly when its condition holds, with the
word and its address recorded; no step takes another. -/
def Obligations.ExactlyThreeFaults : Prop :=
  (FaultKind.code .unknownInstruction = 0 ∧ FaultKind.code .stackOverflow = 1 ∧ FaultKind.code .stackUnderflow = 2) ∧
  ∀ s : State, s.status = .running →
    (∀ (t : State) (r : FaultRecord), step s = .next t → t.status = .halted r →
      r.word = s.fetchWord ∧ r.fpc = s.pc.setWidth 12 ∧
      ((r.kind = .unknownInstruction ∧ decode s.fetchWord = none) ∨
       (r.kind = .stackOverflow ∧ s.sp = 16 ∧ ∃ nnn, decode s.fetchWord = some (.call nnn)) ∨
       (r.kind = .stackUnderflow ∧ s.sp = 0 ∧ decode s.fetchWord = some .ret))) ∧
    (decode s.fetchWord = none → ∃ t, step s = .next t ∧
      t.status = .halted { kind := .unknownInstruction, word := s.fetchWord, fpc := s.pc.setWidth 12 }) ∧
    (∀ nnn, decode s.fetchWord = some (.call nnn) → s.sp = 16 → ∃ t, step s = .next t ∧
      t.status = .halted { kind := .stackOverflow, word := s.fetchWord, fpc := s.pc.setWidth 12 }) ∧
    (decode s.fetchWord = some .ret → s.sp = 0 → ∃ t, step s = .next t ∧
      t.status = .halted { kind := .stackUnderflow, word := 0x00EE, fpc := s.pc.setWidth 12 })

/-- R83: a step while halted changes nothing but load_open and returns the recorded fault, and no transaction but reset
leaves the halt. -/
def Obligations.HaltedStepReturnsRecord : Prop :=
  ∀ (s : State) (r : FaultRecord), s.status = .halted r →
    step s = .next { s with loadOpen := false } ∧
    transact .step s = .next ({ s with loadOpen := false }, .fatal r) ∧
    (∀ tr, tr ≠ .reset → ∃ t a, transact tr s = .next (t, a) ∧ t.status = .halted r) ∧
    ∃ t, transact .reset s = .next (t, .nothing) ∧ t.status = .running

/-- R93: the status a step leaves and the result it returns, by the status before. -/
def Obligations.StepResultsByStatus : Prop :=
  ∀ (s t : State) (r : Response), transact .step s = .next (t, r) →
    (s.status = .running →
      (r = .ok ∧ t.status = .running) ∨
      (r = .awaitingKey ∧ t.status = .awaitingKey ∧ ∃ x, decode s.fetchWord = some (.ldVxK x)) ∨
      (∃ rec, r = .fatal rec ∧ t.status = .halted rec)) ∧
    (s.status = .awaitingKey →
      (s.keys &&& ~~~s.waitPrev = 0 ∧ r = .awaitingKey ∧ t.status = .awaitingKey) ∨
      (s.keys &&& ~~~s.waitPrev ≠ 0 ∧ r = .ok ∧ t.status = .running)) ∧
    (∀ rec, s.status = .halted rec → r = .fatal rec ∧ t.status = .halted rec)

/-- R144, R83, R149: no transaction but reset leaves Halted, and until then nothing changes but the timers (tick) and
the latch (the host). That loading is closed while halted is the invariant StatusOk. -/
def Obligations.OnlyResetLeavesHalted : Prop :=
  ∀ (s t : State) (tr : Transaction) (r : Response) (rec : FaultRecord), s.status = .halted rec → s.loadOpen = false →
    tr ≠ .reset → transact tr s = .next (t, r) → t.status = .halted rec ∧ onlyChanges [.dt, .st, .keys] s t

/-- R140, R49: in a state whose sp is in 0..16 every transaction answers a next state; nothing stops the machine. -/
def Obligations.EveryTransactionAnswers : Prop :=
  ∀ (s : State) (tr : Transaction), s.sp.toNat ≤ 16 → ∃ t r, transact tr s = .next (t, r)

/-! ## Whole-machine rules -/

/-- Who writes what, from the writers that R23, R26-R30, R32 and R50 list: I, sp, the call stack, the timers, the
framebuffer, memory and the latch. -/
def Obligations.OnlyTheListedWriters : Prop :=
  ∀ (s t : State) (i : Instr), s.status = .running → decode s.fetchWord = some i → step s = .next t →
    ((∀ nnn x, i ≠ .ldI nnn ∧ i ≠ .addIVx x ∧ i ≠ .ldFVx x) → agreeOn s t .i) ∧
    ((∀ nnn, i ≠ .call nnn ∧ i ≠ .ret) → agreeOn s t .sp) ∧
    ((∀ nnn, i ≠ .call nnn) → agreeOn s t .stack) ∧
    ((∀ x, i ≠ .ldDtVx x) → agreeOn s t .dt) ∧
    ((∀ x, i ≠ .ldStVx x) → agreeOn s t .st) ∧
    ((∀ x y n, i ≠ .cls ∧ i ≠ .drw x y n) → agreeOn s t .fb) ∧
    ((∀ x, i ≠ .ldBVx x ∧ i ≠ .ldMemVx x) → agreeOn s t .mem) ∧
    agreeOn s t .keys ∧ agreeOn s t .cfg

/-- R21: the instructions that write VF as a side effect are 8XY4, 8XY5, 8XY6, 8XY7, 8XYE and DXYN; any other leaves it
alone unless VF is its destination (its x field is F, for FX65 the last register it loads). -/
def Obligations.VfSideEffects : Prop :=
  ∀ (s t : State) (i : Instr), exec i s = .next t →
    (∀ x y n, i ≠ .addReg x y ∧ i ≠ .sub x y ∧ i ≠ .shr x y ∧ i ≠ .subn x y ∧ i ≠ .shl x y ∧ i ≠ .drw x y n) →
    (∀ y nn, i ≠ .ldByte 0xF nn ∧ i ≠ .addByte 0xF nn ∧ i ≠ .ldReg 0xF y ∧ i ≠ .orReg 0xF y ∧ i ≠ .andReg 0xF y ∧
      i ≠ .xorReg 0xF y ∧ i ≠ .rnd 0xF nn ∧ i ≠ .ldVxDt 0xF ∧ i ≠ .ldVxMem 0xF) →
    t.readV 0xF = s.readV 0xF

/-- R46, R32: a running step whose instruction is not EX9E, EXA1 or FX0A does not depend on the input latch (that FX0A
copies it is R131; log entry 4). -/
def Obligations.KeysUnseenElsewhere : Prop :=
  ∀ (s t : State) (k : Word) (i : Instr), s.status = .running → decode s.fetchWord = some i →
    (∀ x, i ≠ .skp x ∧ i ≠ .sknp x ∧ i ≠ .ldVxK x) → step s = .next t →
    step { s with keys := k } = .next { t with keys := k }

/-! ## Transactions (10_state.md, 60_exceptions.md R148, 70_reset_and_hazards.md) -/

/-- R148: tick takes one off each nonzero timer, in every status, and changes nothing else. -/
def Obligations.TickDecrements : Prop :=
  ∀ s : State, ∃ t, transact .tick s = .next (t, .nothing) ∧ t.dt.toNat = s.dt.toNat - 1 ∧
    t.st.toNat = s.st.toNat - 1 ∧ onlyChanges [.dt, .st] s t

/-- R42: a load is taken whole while loading is open and the ROM fits, and otherwise refused with no change; a
successful load and every step close loading, and reset opens it. -/
def Obligations.LoadWholeOrRefused : Prop :=
  ∀ (s : State) (rom : List Byte), s.mem.wf = true →
    (s.loadOpen = true → rom.length ≤ 3584 →
      ∃ t, transact (.load rom) s = .next (t, .ok) ∧
        (∀ (j : Nat) (h : j < rom.length), t.mem.readAt (0x200 + j) = rom[j]) ∧
        (∀ a < 4096, (a < 0x200 ∨ 0x200 + rom.length ≤ a) → t.mem.readAt a = s.mem.readAt a) ∧
        t.loadOpen = false ∧ onlyChanges [.mem, .loadOpen] s t) ∧
    (s.loadOpen = false ∨ 3584 < rom.length → transact (.load rom) s = .next (s, .loadError)) ∧
    (∀ t, step s = .next t → t.loadOpen = false) ∧
    (∀ t r, transact .reset s = .next (t, r) → t.loadOpen = true)

/-- R42 along a host schedule: once loading is closed, no transaction but reset opens it, so every later load of the
schedule is refused and memory changes only by steps. -/
def Obligations.LoadingStaysClosed : Prop :=
  ∀ (ts : List Transaction) (s t : State) (rs : List Response), s.loadOpen = false → .reset ∉ ts →
    transactAll ts s = .next (t, rs) → t.loadOpen = false ∧ rs.length = ts.length ∧
      ∀ (k : Nat) (h : k < ts.length) (rom : List Byte), ts[k] = .load rom → rs[k]? = some .loadError

/-- R156: every piece of state after reset(), from any state and under any parameters: memory is the font at FONT_BASE
and zero elsewhere, and the latch is as the host drives it. -/
def Obligations.ResetSetsEverything : Prop :=
  ∀ s : State, ∃ t, transact .reset s = .next (t, .nothing) ∧
    (∀ r, t.readV r = 0) ∧ t.i = 0 ∧ t.pc = 0x200 ∧ t.sp = 0 ∧ (∀ k : Fin 16, t.stack[k] = 0) ∧ t.dt = 0 ∧ t.st = 0 ∧
    (∀ x y, t.pixelAt x y = false) ∧
    (∀ (g : Fin 16) (k : Fin 5), t.mem.readAt (s.cfg.fontBase.toNat + 5 * g.val + k.val) = s.cfg.font[g][k]) ∧
    (∀ a : Nat, (∀ j < 80, a % 4096 ≠ (s.cfg.fontBase.toNat + j) % 4096) → t.mem.readAt a = 0) ∧
    t.status = .running ∧ t.waitX = 0 ∧ t.waitPrev = 0 ∧ t.faultRecord = none ∧ t.loadOpen = true ∧
    t.keys = s.keys

/-- The model's own choice (log entries 1, 2, 3; no rule of the spec): reset() keeps the draw counter and the
parameters, and State.reset is what it leaves under the default parameters with the latch and the counter at 0. -/
def Obligations.ResetStateIsAReset : Prop :=
  (∀ s : State, ∃ t, transact .reset s = .next (t, .nothing) ∧ t.draws = s.draws ∧ t.cfg = s.cfg) ∧
  ∀ s : State, s.cfg = Config.default → s.keys = 0 → s.draws = 0 → transact .reset s = .next (State.reset, .nothing)

/-- R47: the read ports, functions of the state. -/
def Obligations.ReadPorts : Prop :=
  ∀ (s : State) (x y : Nat),
    s.pixelAt x y = s.fb[y % 32].getLsbD (x % 64) ∧ s.delay = s.dt ∧ s.sound = s.st ∧
    (s.soundActive = true ↔ s.st.toNat > 0) ∧
    (∀ r, s.status = .halted r → s.faultRecord = some r) ∧
    (s.notHalted → s.faultRecord = none)

/-- R40: a step and a tick requested at one instant are the step and then the tick. -/
def Obligations.StepBeforeTick : Prop :=
  ∀ s : State, s.sp.toNat ≤ 16 →
    ∃ t u r, transact .step s = .next (t, r) ∧ transact .tick t = .next (u, .nothing) ∧
      transact .stepAndTick s = .next (u, r)

/-! ## Encoding (30_encoding.md) -/

/-- A few words written out bit by bit from R69 and R72. -/
def Obligations.DecodeSampleWords : Prop :=
  decode 0b0000000011100000 = some .cls ∧
  decode 0b0010001000010000 = some (.call 0x210) ∧
  decode 0b1000000100100111 = some (.subn 1 2) ∧
  decode 0b1100001100001111 = some (.rnd 3 0x0F) ∧
  decode 0b1101000000010101 = some (.drw 0 1 5) ∧
  decode 0b1111101000110011 = some (.ldBVx 0xA) ∧
  decode 0b1110010110100001 = some (.sknp 5)

/-- Every well-formed instruction decodes from its own word, from its two bytes in memory order, and from its number in
the opcode table. -/
def Obligations.DecodeOfEncode : Prop :=
  ∀ i : Instr, i.wf = true →
    decode (encode i) = some i ∧
    (∀ rest, decodeBytes (wordBytes (encode i) ++ rest) = .ok (i, rest)) ∧
    decodeTableWord 16 (encode i).toNat = some i

/-- Every word has one meaning: what a word decodes to is well-formed and encodes to that word. -/
def Obligations.EncodeOfDecode : Prop :=
  ∀ (w : Word) (i : Instr), decode w = some i → i.wf = true ∧ encode i = w

/-- R75: no two rows of R72 match the same word, so a decoder can test them in any order: whichever row matches, its
instruction is the decoded one. -/
def Obligations.NoTwoRowsMatch : Prop :=
  (∀ (w : Word) (j k : Nat) (r q : OpcodeRow), opcodeRows[j]? = some r → opcodeRows[k]? = some q →
    r.hits w = true → q.hits w = true → j = k) ∧
  ∀ (w : Word) (r : OpcodeRow), r ∈ opcodeRows → r.hits w = true → decode w = some (r.build w)

/-- R76, R77: the words that are no instruction, space by space. -/
def Obligations.UnknownWordsExactly : Prop :=
  ∀ w : Word, decode w = none ↔
    (fieldOp w = 0x0 ∧ w ≠ 0x00E0 ∧ w ≠ 0x00EE) ∨
    (fieldOp w = 0x5 ∧ fieldN w ≠ 0) ∨
    (fieldOp w = 0x8 ∧ fieldN w ∈ ([0x8, 0x9, 0xA, 0xB, 0xC, 0xD, 0xF] : List Nibble)) ∨
    (fieldOp w = 0x9 ∧ fieldN w ≠ 0) ∨
    (fieldOp w = 0xE ∧ fieldNN w ∉ ([0x9E, 0xA1] : List Byte)) ∨
    (fieldOp w = 0xF ∧ fieldNN w ∉ ([0x07, 0x0A, 0x15, 0x18, 0x1E, 0x29, 0x33, 0x55, 0x65] : List Byte))

/-! ## Invariants -/

/-- The model's own choice (log entry 10, DESIGN CHOICE; no rule of the spec): memory is a list of cells in canonical
form. The form is one: two canonical memories that read the same are the same data. -/
def Obligations.CanonicalMemoryIsUnique : Prop :=
  ∀ m m' : Memory, m.wf = true → m'.wf = true → (∀ a < 4096, m.read a = m'.read a) → m = m'

/-- Reset is legal, and its status says nothing false, under any parameters. Legal's clause on the canonical list form of
memory is the model's own (log entry 10). -/
def Obligations.ResetIsLegal : Prop :=
  State.reset.Legal ∧ State.reset.StatusOk ∧ ∀ s : State, s.resetCore.Legal ∧ s.resetCore.StatusOk

/-- R23, R24, R26, R27: every step from a legal state leaves a legal state. Legal's clause on the canonical list form of
memory is the model's own (log entry 10). -/
def Obligations.StepKeepsLegal : Prop :=
  ∀ s t : State, s.Legal → step s = .next t → t.Legal

/-- The same (log entry 10 for the memory clause) along any host schedule: resets, loads, steps, ticks and changes of
the latch in any order. -/
def Obligations.ScheduleKeepsLegal : Prop :=
  ∀ (ts : List Transaction) (s : State), s.Legal → ∃ t rs, transactAll ts s = .next (t, rs) ∧ t.Legal

/-- What status says stays true at every step: a halted core's record names the word at pc and the condition that
faulted, and a waiting core stands just past the FX0A that waits for V[wait_x]. -/
def Obligations.StepKeepsStatusOk : Prop :=
  ∀ s t : State, s.Legal → s.StatusOk → step s = .next t → t.StatusOk

/-- The same at every transaction. -/
def Obligations.TransactionKeepsStatusOk : Prop :=
  ∀ (s t : State) (tr : Transaction) (r : Response), s.Legal → s.StatusOk → transact tr s = .next (t, r) → t.StatusOk
end

