-- ==== Sys2Proof/Laws/Display.lean ====
section
/-! SUPPORT. The laws of the framebuffer engine: what one flip, one pixel of the loop and a blank framebuffer read as. -/

namespace Sys2Proof.Machine

@[simp] theorem Framebuffer.pixelAt_blank (x y : Nat) : Framebuffer.blank.pixelAt x y = false := by
  simp [Framebuffer.pixelAt, Framebuffer.blank]

/-- Coordinates are taken modulo the buffer (10_state.md R39). -/
@[simp] theorem Framebuffer.pixelAt_mod (fb : Framebuffer) (x y : Nat) :
    fb.pixelAt (x % 64) (y % 32) = fb.pixelAt x y := by
  simp [Framebuffer.pixelAt]

/-- A flip changes its own pixel and no other. -/
theorem Framebuffer.pixelAt_flip (fb : Framebuffer) (x y px py : Nat) :
    (fb.flip x y).pixelAt px py =
      if px % 64 = x % 64 ∧ py % 32 = y % 32 then !fb.pixelAt px py else fb.pixelAt px py := by
  have hx : x % 64 < 64 := Nat.mod_lt _ (by norm_num)
  simp only [Framebuffer.pixelAt, Framebuffer.flip, Vector.getElem_set]
  by_cases hy : py % 32 = y % 32
  · simp only [hy, if_true, and_true, BitVec.getLsbD_xor, BitVec.getLsbD_twoPow]
    by_cases hxe : px % 64 = x % 64
    · simp [hxe, hx]
    · have : ¬ x % 64 = px % 64 := fun e => hxe e.symm
      simp [hxe, this]
  · have : ¬ y % 32 = py % 32 := fun e => hy e.symm
    simp [hy, this]

/-- Two framebuffers with the same pixels are the same. -/
theorem Framebuffer.ext_pixels {f g : Framebuffer} (h : ∀ x y, f.pixelAt x y = g.pixelAt x y) : f = g := by
  apply Vector.ext
  intro y hy
  apply BitVec.eq_of_getLsbD_eq
  intro x hx
  have := h x y
  simpa [Framebuffer.pixelAt, Nat.mod_eq_of_lt hx, Nat.mod_eq_of_lt hy] using this

/-- What the body of the pixel loop does (44_display.md R124, R126). -/
theorem drawPixel_cases (x0 y : Nat) (b : Byte) (acc : Framebuffer × Bool) (c : Nat) :
    (bitAt b c = true ∧ (drawPixel x0 y b acc c).1 = acc.1.flip (x0 + c) y ∧
      (drawPixel x0 y b acc c).2 = (acc.2 || acc.1.pixelAt (x0 + c) y)) ∨
    (bitAt b c = false ∧ drawPixel x0 y b acc c = acc) := by
  cases h : bitAt b c
  · exact .inr ⟨rfl, by simp [drawPixel, h]⟩
  · exact .inl ⟨rfl, by simp [drawPixel, h], by simp [drawPixel, h]⟩

@[simp] theorem drawRows_nil (x0 y : Nat) (acc : Framebuffer × Bool) : drawRows x0 y [] acc = acc := rfl

theorem drawRows_cons (x0 y : Nat) (b : Byte) (bs : List Byte) (acc : Framebuffer × Bool) :
    drawRows x0 y (b :: bs) acc = drawRows x0 (y + 1) bs (drawRow x0 y b acc) := rfl

end Sys2Proof.Machine
end

