-- ==== Sys2Proof/Laws/Words.lean ====
section
/-! SUPPORT. Laws of 12-bit values, of the bytes of a word, and of the fields of packed instruction words. -/

namespace Sys2Proof

/-! ## Bytes of a word -/

/-- The two bytes of a word give it back, high byte first (20_memory.md R56). -/
@[simp] theorem joinBytes_highByte_lowByte (w : Word) : joinBytes (highByte w) (lowByte w) = w := by
  apply BitVec.eq_of_getLsbD_eq
  intro k hk
  by_cases h : k < 8
  · simp [joinBytes, highByte, lowByte, h, hk]
  · have : 8 + (k - 8) = k := by omega
    simp [joinBytes, highByte, lowByte, h, hk, this]
    omega

@[simp] theorem highByte_joinBytes (a b : Byte) : highByte (joinBytes a b) = a := by
  apply BitVec.eq_of_getLsbD_eq
  intro k hk
  have : 8 + k < 16 := by omega
  simp [joinBytes, highByte, hk, this]

@[simp] theorem lowByte_joinBytes (a b : Byte) : lowByte (joinBytes a b) = b := by
  apply BitVec.eq_of_getLsbD_eq
  intro k hk
  have : k < 16 := by omega
  simp [joinBytes, lowByte, hk, this]

/-! ## Packed words: each field reads back -/

section
variable (op x y n : Nibble) (nn : Byte) (nnn : Word)

@[simp] theorem fieldX_packXNN : fieldX (packXNN op x nn) = x := by
  apply BitVec.eq_of_getLsbD_eq
  intro k hk
  have h1 : 8 + k < 12 := by omega
  have h2 : 8 + k < 16 := by omega
  simp [fieldX, packXNN, hk, h1, h2]

@[simp] theorem fieldNN_packXNN : fieldNN (packXNN op x nn) = nn := by
  apply BitVec.eq_of_getLsbD_eq
  intro k hk
  have h1 : k < 12 := by omega
  have h2 : k < 16 := by omega
  simp [fieldNN, packXNN, hk, h1, h2]

@[simp] theorem fieldX_packXYN : fieldX (packXYN op x y n) = x := by
  apply BitVec.eq_of_getLsbD_eq
  intro k hk
  have h1 : 8 + k < 12 := by omega
  have h2 : 8 + k < 16 := by omega
  have h3 : ¬ 8 + k < 4 := by omega
  have h4 : n.getLsbD (8 + k) = false := BitVec.getLsbD_of_ge _ _ (by omega)
  have h5 : y.getLsbD (8 + k - 4) = false := BitVec.getLsbD_of_ge _ _ (by omega)
  simp [fieldX, packXYN, hk, h1, h2, h3, h4, h5]

@[simp] theorem fieldY_packXYN : fieldY (packXYN op x y n) = y := by
  apply BitVec.eq_of_getLsbD_eq
  intro k hk
  have h1 : 4 + k < 8 := by omega
  have h2 : 4 + k < 12 := by omega
  have h3 : 4 + k < 16 := by omega
  simp [fieldY, packXYN, hk, h1, h2, h3]

@[simp] theorem fieldN_packXYN : fieldN (packXYN op x y n) = n := by
  apply BitVec.eq_of_getLsbD_eq
  intro k hk
  have h1 : k < 8 := by omega
  have h2 : k < 12 := by omega
  have h3 : k < 16 := by omega
  have h4 : k < 4 := hk
  simp [fieldN, packXYN, h4, h1, h2, h3]

/-- The address field of a packed word is the operand's low 12 bits. -/
@[simp] theorem fieldNNN_packAddr : fieldNNN (packAddr op nnn) = nnn &&& 0x0FFF := by
  apply BitVec.eq_of_getLsbD_eq
  intro k hk
  by_cases h : k < 12
  · simp [fieldNNN, packAddr, h, hk]
  · have h2 : (4095#16).getLsbD k = false := by
      rw [← BitVec.testBit_toNat]
      exact Nat.testBit_lt_two_pow (lt_of_lt_of_le (by decide : (4095#16).toNat < 2 ^ 12)
        (Nat.pow_le_pow_right (by norm_num) (by omega)))
    simp [fieldNNN, packAddr, h2]

/-! ## Packed words under the masks of the opcode map (30_encoding.md R72) -/

theorem packAddr_and_0xF000 : packAddr op nnn &&& (0xF000 : Word) = op.setWidth 16 <<< 12 := by
  apply BitVec.eq_of_getLsbD_eq
  intro k hk
  interval_cases k <;> simp [packAddr]

theorem packXNN_and_0xF000 : packXNN op x nn &&& (0xF000 : Word) = op.setWidth 16 <<< 12 := by
  apply BitVec.eq_of_getLsbD_eq
  intro k hk
  interval_cases k <;> simp [packXNN]

theorem packXNN_and_0xF0FF : packXNN op x nn &&& (0xF0FF : Word) = (op.setWidth 16 <<< 12) ||| nn.setWidth 16 := by
  apply BitVec.eq_of_getLsbD_eq
  intro k hk
  interval_cases k <;> simp [packXNN]

theorem packXYN_and_0xF000 : packXYN op x y n &&& (0xF000 : Word) = op.setWidth 16 <<< 12 := by
  apply BitVec.eq_of_getLsbD_eq
  intro k hk
  interval_cases k <;> simp [packXYN]

theorem packXYN_and_0xF00F : packXYN op x y n &&& (0xF00F : Word) = (op.setWidth 16 <<< 12) ||| n.setWidth 16 := by
  apply BitVec.eq_of_getLsbD_eq
  intro k hk
  interval_cases k <;> simp [packXYN]

end

namespace Machine

/-! ## 12-bit values (10_state.md R23, R24) -/

theorem and_0xFFF_toNat (w : Word) : (w &&& 0x0FFF).toNat = w.toNat % 4096 := by
  rw [BitVec.toNat_and]
  exact Nat.and_two_pow_sub_one_eq_mod w.toNat 12

@[simp] theorem low12_toNat (w : Word) : (low12 w).toNat = w.toNat % 4096 := and_0xFFF_toNat w

theorem low12_lt (w : Word) : (low12 w).toNat < 4096 := by
  rw [low12_toNat]; exact Nat.mod_lt _ (by norm_num)

/-- A 12-bit value is stored as it is. -/
theorem low12_of_lt {w : Word} (h : w.toNat < 4096) : low12 w = w :=
  BitVec.eq_of_toNat_eq (by rw [low12_toNat, Nat.mod_eq_of_lt h])

@[simp] theorem low12_low12 (w : Word) : low12 (low12 w) = low12 w := low12_of_lt (low12_lt w)

/-- Stepping past 0xFFF wraps (40_cycle.md R91), also in two strides. -/
theorem low12_add_low12 (w k : Word) : low12 (low12 w + k) = low12 (w + k) := by
  apply BitVec.eq_of_toNat_eq
  simp only [low12_toNat, BitVec.toNat_add]
  omega

end Machine

end Sys2Proof
end

