-- ==== Sys2Proof/Laws/Memory.lean ====
section
/-! SUPPORT. The laws of memory: a read after a write, the bytes a run of stores leaves alone, and the canonical form
that every operation keeps. -/

namespace Sys2Proof.Machine

/-! ## One cell -/

@[simp] theorem Memory.read_nil (a : Nat) : Memory.read [] a = Memory.unlisted a := rfl

theorem Memory.read_cons (a' : Nat) (b' : Byte) (m : Memory) (a : Nat) :
    Memory.read ((a', b') :: m) a = if a = a' then b' else Memory.read m a := rfl

theorem Memory.wfFrom_nil (lo : Nat) : Memory.wfFrom lo [] = true := rfl

theorem Memory.wfFrom_cons {lo a : Nat} {b : Byte} {m : Memory} :
    Memory.wfFrom lo ((a, b) :: m) = true ↔
      lo ≤ a ∧ a < memSize ∧ b ≠ Memory.unlisted a ∧ Memory.wfFrom (a + 1) m = true := by
  simp [Memory.wfFrom, and_assoc]

theorem Memory.wfFrom_mono {lo lo' : Nat} {m : Memory} (h : lo' ≤ lo) (hm : Memory.wfFrom lo m = true) :
    Memory.wfFrom lo' m = true := by
  cases m with
  | nil => rfl
  | cons c m =>
    obtain ⟨h1, h2⟩ := Memory.wfFrom_cons.mp hm
    exact Memory.wfFrom_cons.mpr ⟨h.trans h1, h2⟩

/-- Below its first address a canonical memory lists nothing. -/
theorem Memory.read_of_lt {lo a : Nat} {m : Memory} (hm : Memory.wfFrom lo m = true) (h : a < lo) :
    m.read a = Memory.unlisted a := by
  induction m generalizing lo with
  | nil => rfl
  | cons c m ih =>
    obtain ⟨h1, -, -, h4⟩ := Memory.wfFrom_cons.mp hm
    rw [Memory.read_cons, if_neg (by omega)]
    exact ih h4 (by omega)

theorem Memory.wfFrom_consCell {lo a : Nat} {b : Byte} {m : Memory} (ha : lo ≤ a) (h : a < memSize)
    (hm : Memory.wfFrom (a + 1) m = true) : Memory.wfFrom lo (Memory.cons a b m) = true := by
  unfold Memory.cons
  split
  · exact Memory.wfFrom_mono (by omega) hm
  · exact Memory.wfFrom_cons.mpr ⟨ha, h, ‹_›, hm⟩

theorem Memory.read_consCell {a : Nat} {b : Byte} {m : Memory} (hm : Memory.wfFrom (a + 1) m = true) (a' : Nat) :
    Memory.read (Memory.cons a b m) a' = if a' = a then b else m.read a' := by
  unfold Memory.cons
  split
  · rename_i h
    split
    · subst_vars; rw [Memory.read_of_lt hm (by omega)]
    · rfl
  · rfl

/-! ## One write -/

theorem Memory.write_wfFrom {lo a : Nat} {b : Byte} {m : Memory} (ha : lo ≤ a) (h : a < memSize)
    (hm : Memory.wfFrom lo m = true) : Memory.wfFrom lo (m.write a b) = true := by
  induction m generalizing lo with
  | nil => exact Memory.wfFrom_consCell ha h rfl
  | cons c m ih =>
    obtain ⟨h1, h2, h3, h4⟩ := Memory.wfFrom_cons.mp hm
    unfold Memory.write
    split
    · exact Memory.wfFrom_consCell ha h (Memory.wfFrom_cons.mpr ⟨by omega, h2, h3, h4⟩)
    · split
      · subst_vars; exact Memory.wfFrom_consCell ha h h4
      · exact Memory.wfFrom_cons.mpr ⟨h1, h2, h3, ih (by omega) h4⟩

/-- A write keeps the canonical form. -/
theorem Memory.write_wf {m : Memory} {a : Nat} {b : Byte} (h : a < memSize) (hm : m.wf = true) :
    (m.write a b).wf = true := Memory.write_wfFrom (Nat.zero_le a) h hm

theorem Memory.read_write_from {lo : Nat} {m : Memory} (hm : Memory.wfFrom lo m = true) (a : Nat) (b : Byte)
    (a' : Nat) : (m.write a b).read a' = if a' = a then b else m.read a' := by
  induction m generalizing lo with
  | nil => exact Memory.read_consCell rfl a'
  | cons c m ih =>
    obtain ⟨-, h2, h3, h4⟩ := Memory.wfFrom_cons.mp hm
    unfold Memory.write
    split
    · rw [Memory.read_consCell (Memory.wfFrom_cons.mpr ⟨by omega, h2, h3, h4⟩)]
    · split
      · rename_i h
        rw [Memory.read_consCell (h ▸ h4), Memory.read_cons]
        split <;> simp_all
      · rw [Memory.read_cons, Memory.read_cons, ih h4]
        split <;> split <;> simp_all

/-- In a canonical memory a write is seen at its address and nowhere else. -/
theorem Memory.read_write {m : Memory} (hm : m.wf = true) (a : Nat) (b : Byte) (a' : Nat) :
    (m.write a b).read a' = if a' = a then b else m.read a' := Memory.read_write_from hm a b a'

/-! ## Masked accesses (20_memory.md R51) -/

theorem mod_memSize_lt (a : Nat) : a % memSize < memSize := Nat.mod_lt _ (by norm_num)

theorem Memory.writeAt_wf {m : Memory} (a : Nat) (b : Byte) (hm : m.wf = true) : (m.writeAt a b).wf = true :=
  Memory.write_wf (mod_memSize_lt a) hm

theorem Memory.readAt_writeAt {m : Memory} (hm : m.wf = true) (a : Nat) (b : Byte) (a' : Nat) :
    (m.writeAt a b).readAt a' = if a' % memSize = a % memSize then b else m.readAt a' :=
  Memory.read_write hm _ b _

@[simp] theorem Memory.readAt_mod (m : Memory) (a : Nat) : m.readAt (a % memSize) = m.readAt a := by
  simp [Memory.readAt]

/-! ## A run of bytes -/

@[simp] theorem Memory.writeBytes_nil (m : Memory) (a : Nat) : m.writeBytes a [] = m := rfl

theorem Memory.writeBytes_cons (m : Memory) (a : Nat) (b : Byte) (bs : List Byte) :
    m.writeBytes a (b :: bs) = (m.writeAt a b).writeBytes (a + 1) bs := rfl

/-- A run of stores keeps the canonical form. -/
theorem Memory.writeBytes_wf {m : Memory} (a : Nat) (bs : List Byte) (hm : m.wf = true) :
    (m.writeBytes a bs).wf = true := by
  induction bs generalizing m a with
  | nil => exact hm
  | cons b bs ih => exact ih _ (Memory.writeAt_wf a b hm)

/-- A run of stores leaves every byte outside it alone. -/
theorem Memory.readAt_writeBytes_outside {m : Memory} (hm : m.wf = true) (a : Nat) (bs : List Byte) (a' : Nat)
    (h : ∀ k < bs.length, a' % memSize ≠ (a + k) % memSize) : (m.writeBytes a bs).readAt a' = m.readAt a' := by
  induction bs generalizing m a with
  | nil => rfl
  | cons b bs ih =>
    rw [Memory.writeBytes_cons, ih (Memory.writeAt_wf a b hm), Memory.readAt_writeAt hm,
      if_neg (by simpa using h 0 (by simp))]
    intro k hk
    have := h (k + 1) (by simpa using hk)
    rwa [show a + 1 + k = a + (k + 1) by omega]

/-- A run of at most 4096 stores is read back byte by byte. -/
theorem Memory.readAt_writeBytes_inside {m : Memory} (hm : m.wf = true) (a : Nat) (bs : List Byte)
    (hlen : bs.length ≤ memSize) (k : Nat) (hk : k < bs.length) :
    (m.writeBytes a bs).readAt (a + k) = bs[k] := by
  induction bs generalizing m a k with
  | nil => simp at hk
  | cons b bs ih =>
    simp only [List.length_cons] at hlen hk
    rw [Memory.writeBytes_cons]
    cases k with
    | zero =>
      rw [Memory.readAt_writeBytes_outside (Memory.writeAt_wf a b hm), Memory.readAt_writeAt hm]
      · simp
      · intro j hj
        simp only [memSize] at *
        omega
    | succ k =>
      rw [show a + (k + 1) = a + 1 + k by omega, ih (Memory.writeAt_wf a b hm) _ (by omega) _ (by omega)]
      rfl

@[simp] theorem Memory.readBytes_length (m : Memory) (a n : Nat) : (m.readBytes a n).length = n := by
  simp [Memory.readBytes]

@[simp] theorem Memory.readBytes_getElem (m : Memory) (a n k : Nat) (h : k < (m.readBytes a n).length) :
    (m.readBytes a n)[k] = m.readAt (a + k) := by
  simp [Memory.readBytes]

/-! ## Reset contents (20_memory.md R54) -/

theorem Memory.filterMap_range_wfFrom (f : Nat → Byte) (n lo : Nat) (h : lo + n ≤ memSize) :
    Memory.wfFrom lo ((List.range' lo n).filterMap
      (fun a => if f a = Memory.unlisted a then none else some (a, f a))) = true := by
  induction n generalizing lo with
  | zero => rfl
  | succ n ih =>
    rw [List.range'_succ, List.filterMap_cons]
    split
    · exact Memory.wfFrom_mono (by omega) (ih (lo + 1) (by omega))
    · rename_i c hc
      split at hc
      · simp at hc
      · obtain rfl := Option.some.inj hc
        exact Memory.wfFrom_cons.mpr ⟨le_refl _, by omega, ‹_›, ih (lo + 1) (by omega)⟩

/-- Reset leaves memory in canonical form, whatever the parameters. -/
theorem Memory.resetImage_wf (c : Config) : (Memory.resetImage c).wf = true := by
  unfold Memory.resetImage Memory.wf
  rw [List.range_eq_range']
  exact Memory.filterMap_range_wfFrom (resetByte c) memSize 0 (by norm_num)

theorem Memory.read_filterMap_range (f : Nat → Byte) (n lo a : Nat) (h1 : lo ≤ a) (h2 : a < lo + n)
    (hle : lo + n ≤ memSize) :
    Memory.read ((List.range' lo n).filterMap
      (fun a => if f a = Memory.unlisted a then none else some (a, f a))) a = f a := by
  induction n generalizing lo with
  | zero => omega
  | succ n ih =>
    have htail := Memory.filterMap_range_wfFrom f n (lo + 1) (by omega)
    rw [List.range'_succ, List.filterMap_cons]
    by_cases hf : f lo = Memory.unlisted lo
    · simp only [hf, if_true]
      by_cases ha : a = lo
      · subst ha
        rw [Memory.read_of_lt htail (by omega), hf]
      · exact ih (lo + 1) (by omega) (by omega) (by omega)
    · simp only [hf, if_false]
      rw [Memory.read_cons]
      split
      · subst_vars; rfl
      · exact ih (lo + 1) (by omega) (by omega) (by omega)

/-- Reset leaves the font at FONT_BASE and 0x00 elsewhere, whatever the parameters. -/
theorem Memory.read_resetImage (c : Config) (a : Nat) (h : a < memSize) :
    (Memory.resetImage c).read a = resetByte c a := by
  unfold Memory.resetImage
  rw [List.range_eq_range']
  exact Memory.read_filterMap_range (resetByte c) memSize 0 a (Nat.zero_le a) (by omega) (by norm_num)

/-- Under the default parameters reset lists nothing. -/
theorem Memory.resetImage_default : Memory.resetImage Config.default = [] := by
  unfold Memory.resetImage
  exact List.filterMap_eq_nil_iff.mpr (fun a _ => if_pos rfl)

end Sys2Proof.Machine
end

