-- ==== Sys2Proof/Laws/PerInstr.lean ====
section
/-! SUPPORT. Per-instruction laws (LAWS.json): every instruction's word matches a row of the opcode map, and that
row's fields give a well-formed instruction back. -/

namespace Sys2Proof.Laws.EncodingRow

/-- The word of a well-formed `i` matches a row of R72 whose fields build `i` again. -/
def Statement (i : Instr) : Prop :=
  i.wf = true → ∃ r ∈ opcodeRows, r.hits (encode i) = true ∧ r.build (encode i) = i

/-- Format ADDR. -/
theorem of_addr {k : Nat} {m : String} {p : Word} {c : Word → Instr} {op : Nibble} {nnn : Word}
    (hrow : opcodeRows[k]? = some (rowAddr m p c)) (hp : op.setWidth 16 <<< 12 = p) (ok : addrOperandOk nnn = true) :
    ∃ r ∈ opcodeRows, r.hits (packAddr op nnn) = true ∧ r.build (packAddr op nnn) = c nnn := by
  refine ⟨_, List.mem_of_getElem? hrow, ?_, ?_⟩
  · exact beq_iff_eq.mpr ((packAddr_and_0xF000 ..).trans hp)
  · have h : nnn &&& 0x0FFF = nnn := Machine.low12_of_lt (of_decide_eq_true ok)
    show c (fieldNNN (packAddr op nnn)) = c nnn
    rw [fieldNNN_packAddr, h]

/-- Format XNN. -/
theorem of_xnn {k : Nat} {m : String} {p : Word} {c : Reg → Byte → Instr} {op : Nibble} {x : Reg} {nn : Byte}
    (hrow : opcodeRows[k]? = some (rowXNN m p c)) (hp : op.setWidth 16 <<< 12 = p) :
    ∃ r ∈ opcodeRows, r.hits (packXNN op x nn) = true ∧ r.build (packXNN op x nn) = c x nn := by
  refine ⟨_, List.mem_of_getElem? hrow, ?_, ?_⟩
  · exact beq_iff_eq.mpr ((packXNN_and_0xF000 ..).trans hp)
  · simp [rowXNN]

/-- Format XYS. -/
theorem of_xys {k : Nat} {m : String} {p : Word} {c : Reg → Reg → Instr} {op n : Nibble} {x y : Reg}
    (hrow : opcodeRows[k]? = some (rowXYS m p c)) (hp : (op.setWidth 16 <<< 12) ||| n.setWidth 16 = p) :
    ∃ r ∈ opcodeRows, r.hits (packXYN op x y n) = true ∧ r.build (packXYN op x y n) = c x y := by
  refine ⟨_, List.mem_of_getElem? hrow, ?_, ?_⟩
  · exact beq_iff_eq.mpr ((packXYN_and_0xF00F ..).trans hp)
  · simp [rowXYS]

/-- Format XS. -/
theorem of_xs {k : Nat} {m : String} {p : Word} {c : Reg → Instr} {op : Nibble} {sub : Byte} {x : Reg}
    (hrow : opcodeRows[k]? = some (rowXS m p c)) (hp : (op.setWidth 16 <<< 12) ||| sub.setWidth 16 = p) :
    ∃ r ∈ opcodeRows, r.hits (packXNN op x sub) = true ∧ r.build (packXNN op x sub) = c x := by
  refine ⟨_, List.mem_of_getElem? hrow, ?_, ?_⟩
  · exact beq_iff_eq.mpr ((packXNN_and_0xF0FF ..).trans hp)
  · simp [rowXS]

theorem cls : Statement .cls :=
  fun _ => ⟨_, List.mem_of_getElem? (i := 0) rfl, by decide, rfl⟩

theorem ret : Statement .ret :=
  fun _ => ⟨_, List.mem_of_getElem? (i := 1) rfl, by decide, rfl⟩

theorem jp (nnn : Word) : Statement (.jp nnn) :=
  fun ok => of_addr (k := 2) rfl rfl ok

theorem call (nnn : Word) : Statement (.call nnn) :=
  fun ok => of_addr (k := 3) rfl rfl ok

theorem seByte (x : Reg) (nn : Byte) : Statement (.seByte x nn) :=
  fun _ => of_xnn (k := 4) rfl rfl

theorem sneByte (x : Reg) (nn : Byte) : Statement (.sneByte x nn) :=
  fun _ => of_xnn (k := 5) rfl rfl

theorem seReg (x : Reg) (y : Reg) : Statement (.seReg x y) :=
  fun _ => of_xys (k := 6) rfl rfl

theorem ldByte (x : Reg) (nn : Byte) : Statement (.ldByte x nn) :=
  fun _ => of_xnn (k := 7) rfl rfl

theorem addByte (x : Reg) (nn : Byte) : Statement (.addByte x nn) :=
  fun _ => of_xnn (k := 8) rfl rfl

theorem ldReg (x : Reg) (y : Reg) : Statement (.ldReg x y) :=
  fun _ => of_xys (k := 9) rfl rfl

theorem orReg (x : Reg) (y : Reg) : Statement (.orReg x y) :=
  fun _ => of_xys (k := 10) rfl rfl

theorem andReg (x : Reg) (y : Reg) : Statement (.andReg x y) :=
  fun _ => of_xys (k := 11) rfl rfl

theorem xorReg (x : Reg) (y : Reg) : Statement (.xorReg x y) :=
  fun _ => of_xys (k := 12) rfl rfl

theorem addReg (x : Reg) (y : Reg) : Statement (.addReg x y) :=
  fun _ => of_xys (k := 13) rfl rfl

theorem sub (x : Reg) (y : Reg) : Statement (.sub x y) :=
  fun _ => of_xys (k := 14) rfl rfl

theorem shr (x : Reg) (y : Reg) : Statement (.shr x y) :=
  fun _ => of_xys (k := 15) rfl rfl

theorem subn (x : Reg) (y : Reg) : Statement (.subn x y) :=
  fun _ => of_xys (k := 16) rfl rfl

theorem shl (x : Reg) (y : Reg) : Statement (.shl x y) :=
  fun _ => of_xys (k := 17) rfl rfl

theorem sneReg (x : Reg) (y : Reg) : Statement (.sneReg x y) :=
  fun _ => of_xys (k := 18) rfl rfl

theorem ldI (nnn : Word) : Statement (.ldI nnn) :=
  fun ok => of_addr (k := 19) rfl rfl ok

theorem jpV0 (nnn : Word) : Statement (.jpV0 nnn) :=
  fun ok => of_addr (k := 20) rfl rfl ok

theorem rnd (x : Reg) (nn : Byte) : Statement (.rnd x nn) :=
  fun _ => of_xnn (k := 21) rfl rfl

theorem drw (x : Reg) (y : Reg) (n : Nibble) : Statement (.drw x y n) :=
  fun _ =>
  ⟨_, List.mem_of_getElem? (i := 22) rfl, beq_iff_eq.mpr (packXYN_and_0xF000 ..), by simp [encode]⟩

theorem skp (x : Reg) : Statement (.skp x) :=
  fun _ => of_xs (k := 23) rfl rfl

theorem sknp (x : Reg) : Statement (.sknp x) :=
  fun _ => of_xs (k := 24) rfl rfl

theorem ldVxDt (x : Reg) : Statement (.ldVxDt x) :=
  fun _ => of_xs (k := 25) rfl rfl

theorem ldVxK (x : Reg) : Statement (.ldVxK x) :=
  fun _ => of_xs (k := 26) rfl rfl

theorem ldDtVx (x : Reg) : Statement (.ldDtVx x) :=
  fun _ => of_xs (k := 27) rfl rfl

theorem ldStVx (x : Reg) : Statement (.ldStVx x) :=
  fun _ => of_xs (k := 28) rfl rfl

theorem addIVx (x : Reg) : Statement (.addIVx x) :=
  fun _ => of_xs (k := 29) rfl rfl

theorem ldFVx (x : Reg) : Statement (.ldFVx x) :=
  fun _ => of_xs (k := 30) rfl rfl

theorem ldBVx (x : Reg) : Statement (.ldBVx x) :=
  fun _ => of_xs (k := 31) rfl rfl

theorem ldMemVx (x : Reg) : Statement (.ldMemVx x) :=
  fun _ => of_xs (k := 32) rfl rfl

theorem ldVxMem (x : Reg) : Statement (.ldVxMem x) :=
  fun _ => of_xs (k := 33) rfl rfl

end Sys2Proof.Laws.EncodingRow
end

