-- ==== Sys2Proof/Laws/State.lean ====
section
/-! SUPPORT. One lemma per field per update of the state, and the reads of registers, pixels and the fetched word
through the updates that leave them alone, so that no proof unfolds a record update. -/

namespace Sys2Proof.Machine

section
variable (s : State)

/-! ### writeV -/

@[simp] theorem State.writeV_v (x : Reg) (b : Byte) : (s.writeV x b).v = s.v.set x.toNat b := rfl
@[simp] theorem State.writeV_i (x : Reg) (b : Byte) : (s.writeV x b).i = s.i := rfl
@[simp] theorem State.writeV_pc (x : Reg) (b : Byte) : (s.writeV x b).pc = s.pc := rfl
@[simp] theorem State.writeV_sp (x : Reg) (b : Byte) : (s.writeV x b).sp = s.sp := rfl
@[simp] theorem State.writeV_stack (x : Reg) (b : Byte) : (s.writeV x b).stack = s.stack := rfl
@[simp] theorem State.writeV_dt (x : Reg) (b : Byte) : (s.writeV x b).dt = s.dt := rfl
@[simp] theorem State.writeV_st (x : Reg) (b : Byte) : (s.writeV x b).st = s.st := rfl
@[simp] theorem State.writeV_fb (x : Reg) (b : Byte) : (s.writeV x b).fb = s.fb := rfl
@[simp] theorem State.writeV_mem (x : Reg) (b : Byte) : (s.writeV x b).mem = s.mem := rfl
@[simp] theorem State.writeV_keys (x : Reg) (b : Byte) : (s.writeV x b).keys = s.keys := rfl
@[simp] theorem State.writeV_status (x : Reg) (b : Byte) : (s.writeV x b).status = s.status := rfl
@[simp] theorem State.writeV_waitX (x : Reg) (b : Byte) : (s.writeV x b).waitX = s.waitX := rfl
@[simp] theorem State.writeV_waitPrev (x : Reg) (b : Byte) : (s.writeV x b).waitPrev = s.waitPrev := rfl
@[simp] theorem State.writeV_loadOpen (x : Reg) (b : Byte) : (s.writeV x b).loadOpen = s.loadOpen := rfl
@[simp] theorem State.writeV_draws (x : Reg) (b : Byte) : (s.writeV x b).draws = s.draws := rfl
@[simp] theorem State.writeV_cfg (x : Reg) (b : Byte) : (s.writeV x b).cfg = s.cfg := rfl
@[simp] theorem State.writeV_pixelAt (x : Reg) (b : Byte) (px py : Nat) : (s.writeV x b).pixelAt px py = s.pixelAt px py := rfl
@[simp] theorem State.writeV_fetchWord (x : Reg) (b : Byte) : (s.writeV x b).fetchWord = s.fetchWord := rfl

/-! ### setPc -/

@[simp] theorem State.setPc_v (w : Word) : (s.setPc w).v = s.v := rfl
@[simp] theorem State.setPc_i (w : Word) : (s.setPc w).i = s.i := rfl
@[simp] theorem State.setPc_pc (w : Word) : (s.setPc w).pc = low12 w := rfl
@[simp] theorem State.setPc_sp (w : Word) : (s.setPc w).sp = s.sp := rfl
@[simp] theorem State.setPc_stack (w : Word) : (s.setPc w).stack = s.stack := rfl
@[simp] theorem State.setPc_dt (w : Word) : (s.setPc w).dt = s.dt := rfl
@[simp] theorem State.setPc_st (w : Word) : (s.setPc w).st = s.st := rfl
@[simp] theorem State.setPc_fb (w : Word) : (s.setPc w).fb = s.fb := rfl
@[simp] theorem State.setPc_mem (w : Word) : (s.setPc w).mem = s.mem := rfl
@[simp] theorem State.setPc_keys (w : Word) : (s.setPc w).keys = s.keys := rfl
@[simp] theorem State.setPc_status (w : Word) : (s.setPc w).status = s.status := rfl
@[simp] theorem State.setPc_waitX (w : Word) : (s.setPc w).waitX = s.waitX := rfl
@[simp] theorem State.setPc_waitPrev (w : Word) : (s.setPc w).waitPrev = s.waitPrev := rfl
@[simp] theorem State.setPc_loadOpen (w : Word) : (s.setPc w).loadOpen = s.loadOpen := rfl
@[simp] theorem State.setPc_draws (w : Word) : (s.setPc w).draws = s.draws := rfl
@[simp] theorem State.setPc_cfg (w : Word) : (s.setPc w).cfg = s.cfg := rfl
@[simp] theorem State.setPc_readV (w : Word) (r : Reg) : (s.setPc w).readV r = s.readV r := rfl
@[simp] theorem State.setPc_pixelAt (w : Word) (px py : Nat) : (s.setPc w).pixelAt px py = s.pixelAt px py := rfl

/-! ### advance -/

@[simp] theorem State.advance_v : (s.advance).v = s.v := rfl
@[simp] theorem State.advance_i : (s.advance).i = s.i := rfl
@[simp] theorem State.advance_pc : (s.advance).pc = low12 (s.pc + 2) := rfl
@[simp] theorem State.advance_sp : (s.advance).sp = s.sp := rfl
@[simp] theorem State.advance_stack : (s.advance).stack = s.stack := rfl
@[simp] theorem State.advance_dt : (s.advance).dt = s.dt := rfl
@[simp] theorem State.advance_st : (s.advance).st = s.st := rfl
@[simp] theorem State.advance_fb : (s.advance).fb = s.fb := rfl
@[simp] theorem State.advance_mem : (s.advance).mem = s.mem := rfl
@[simp] theorem State.advance_keys : (s.advance).keys = s.keys := rfl
@[simp] theorem State.advance_status : (s.advance).status = s.status := rfl
@[simp] theorem State.advance_waitX : (s.advance).waitX = s.waitX := rfl
@[simp] theorem State.advance_waitPrev : (s.advance).waitPrev = s.waitPrev := rfl
@[simp] theorem State.advance_loadOpen : (s.advance).loadOpen = s.loadOpen := rfl
@[simp] theorem State.advance_draws : (s.advance).draws = s.draws := rfl
@[simp] theorem State.advance_cfg : (s.advance).cfg = s.cfg := rfl
@[simp] theorem State.advance_readV (r : Reg) : (s.advance).readV r = s.readV r := rfl
@[simp] theorem State.advance_pixelAt (px py : Nat) : (s.advance).pixelAt px py = s.pixelAt px py := rfl

/-! ### setI -/

@[simp] theorem State.setI_v (w : Word) : (s.setI w).v = s.v := rfl
@[simp] theorem State.setI_i (w : Word) : (s.setI w).i = low12 w := rfl
@[simp] theorem State.setI_pc (w : Word) : (s.setI w).pc = s.pc := rfl
@[simp] theorem State.setI_sp (w : Word) : (s.setI w).sp = s.sp := rfl
@[simp] theorem State.setI_stack (w : Word) : (s.setI w).stack = s.stack := rfl
@[simp] theorem State.setI_dt (w : Word) : (s.setI w).dt = s.dt := rfl
@[simp] theorem State.setI_st (w : Word) : (s.setI w).st = s.st := rfl
@[simp] theorem State.setI_fb (w : Word) : (s.setI w).fb = s.fb := rfl
@[simp] theorem State.setI_mem (w : Word) : (s.setI w).mem = s.mem := rfl
@[simp] theorem State.setI_keys (w : Word) : (s.setI w).keys = s.keys := rfl
@[simp] theorem State.setI_status (w : Word) : (s.setI w).status = s.status := rfl
@[simp] theorem State.setI_waitX (w : Word) : (s.setI w).waitX = s.waitX := rfl
@[simp] theorem State.setI_waitPrev (w : Word) : (s.setI w).waitPrev = s.waitPrev := rfl
@[simp] theorem State.setI_loadOpen (w : Word) : (s.setI w).loadOpen = s.loadOpen := rfl
@[simp] theorem State.setI_draws (w : Word) : (s.setI w).draws = s.draws := rfl
@[simp] theorem State.setI_cfg (w : Word) : (s.setI w).cfg = s.cfg := rfl
@[simp] theorem State.setI_readV (w : Word) (r : Reg) : (s.setI w).readV r = s.readV r := rfl
@[simp] theorem State.setI_pixelAt (w : Word) (px py : Nat) : (s.setI w).pixelAt px py = s.pixelAt px py := rfl
@[simp] theorem State.setI_fetchWord (w : Word) : (s.setI w).fetchWord = s.fetchWord := rfl

/-! ### setDt -/

@[simp] theorem State.setDt_v (b : Byte) : (s.setDt b).v = s.v := rfl
@[simp] theorem State.setDt_i (b : Byte) : (s.setDt b).i = s.i := rfl
@[simp] theorem State.setDt_pc (b : Byte) : (s.setDt b).pc = s.pc := rfl
@[simp] theorem State.setDt_sp (b : Byte) : (s.setDt b).sp = s.sp := rfl
@[simp] theorem State.setDt_stack (b : Byte) : (s.setDt b).stack = s.stack := rfl
@[simp] theorem State.setDt_dt (b : Byte) : (s.setDt b).dt = b := rfl
@[simp] theorem State.setDt_st (b : Byte) : (s.setDt b).st = s.st := rfl
@[simp] theorem State.setDt_fb (b : Byte) : (s.setDt b).fb = s.fb := rfl
@[simp] theorem State.setDt_mem (b : Byte) : (s.setDt b).mem = s.mem := rfl
@[simp] theorem State.setDt_keys (b : Byte) : (s.setDt b).keys = s.keys := rfl
@[simp] theorem State.setDt_status (b : Byte) : (s.setDt b).status = s.status := rfl
@[simp] theorem State.setDt_waitX (b : Byte) : (s.setDt b).waitX = s.waitX := rfl
@[simp] theorem State.setDt_waitPrev (b : Byte) : (s.setDt b).waitPrev = s.waitPrev := rfl
@[simp] theorem State.setDt_loadOpen (b : Byte) : (s.setDt b).loadOpen = s.loadOpen := rfl
@[simp] theorem State.setDt_draws (b : Byte) : (s.setDt b).draws = s.draws := rfl
@[simp] theorem State.setDt_cfg (b : Byte) : (s.setDt b).cfg = s.cfg := rfl
@[simp] theorem State.setDt_readV (b : Byte) (r : Reg) : (s.setDt b).readV r = s.readV r := rfl
@[simp] theorem State.setDt_pixelAt (b : Byte) (px py : Nat) : (s.setDt b).pixelAt px py = s.pixelAt px py := rfl
@[simp] theorem State.setDt_fetchWord (b : Byte) : (s.setDt b).fetchWord = s.fetchWord := rfl

/-! ### setSt -/

@[simp] theorem State.setSt_v (b : Byte) : (s.setSt b).v = s.v := rfl
@[simp] theorem State.setSt_i (b : Byte) : (s.setSt b).i = s.i := rfl
@[simp] theorem State.setSt_pc (b : Byte) : (s.setSt b).pc = s.pc := rfl
@[simp] theorem State.setSt_sp (b : Byte) : (s.setSt b).sp = s.sp := rfl
@[simp] theorem State.setSt_stack (b : Byte) : (s.setSt b).stack = s.stack := rfl
@[simp] theorem State.setSt_dt (b : Byte) : (s.setSt b).dt = s.dt := rfl
@[simp] theorem State.setSt_st (b : Byte) : (s.setSt b).st = b := rfl
@[simp] theorem State.setSt_fb (b : Byte) : (s.setSt b).fb = s.fb := rfl
@[simp] theorem State.setSt_mem (b : Byte) : (s.setSt b).mem = s.mem := rfl
@[simp] theorem State.setSt_keys (b : Byte) : (s.setSt b).keys = s.keys := rfl
@[simp] theorem State.setSt_status (b : Byte) : (s.setSt b).status = s.status := rfl
@[simp] theorem State.setSt_waitX (b : Byte) : (s.setSt b).waitX = s.waitX := rfl
@[simp] theorem State.setSt_waitPrev (b : Byte) : (s.setSt b).waitPrev = s.waitPrev := rfl
@[simp] theorem State.setSt_loadOpen (b : Byte) : (s.setSt b).loadOpen = s.loadOpen := rfl
@[simp] theorem State.setSt_draws (b : Byte) : (s.setSt b).draws = s.draws := rfl
@[simp] theorem State.setSt_cfg (b : Byte) : (s.setSt b).cfg = s.cfg := rfl
@[simp] theorem State.setSt_readV (b : Byte) (r : Reg) : (s.setSt b).readV r = s.readV r := rfl
@[simp] theorem State.setSt_pixelAt (b : Byte) (px py : Nat) : (s.setSt b).pixelAt px py = s.pixelAt px py := rfl
@[simp] theorem State.setSt_fetchWord (b : Byte) : (s.setSt b).fetchWord = s.fetchWord := rfl

/-! ### setFb -/

@[simp] theorem State.setFb_v (fb : Framebuffer) : (s.setFb fb).v = s.v := rfl
@[simp] theorem State.setFb_i (fb : Framebuffer) : (s.setFb fb).i = s.i := rfl
@[simp] theorem State.setFb_pc (fb : Framebuffer) : (s.setFb fb).pc = s.pc := rfl
@[simp] theorem State.setFb_sp (fb : Framebuffer) : (s.setFb fb).sp = s.sp := rfl
@[simp] theorem State.setFb_stack (fb : Framebuffer) : (s.setFb fb).stack = s.stack := rfl
@[simp] theorem State.setFb_dt (fb : Framebuffer) : (s.setFb fb).dt = s.dt := rfl
@[simp] theorem State.setFb_st (fb : Framebuffer) : (s.setFb fb).st = s.st := rfl
@[simp] theorem State.setFb_fb (fb : Framebuffer) : (s.setFb fb).fb = fb := rfl
@[simp] theorem State.setFb_mem (fb : Framebuffer) : (s.setFb fb).mem = s.mem := rfl
@[simp] theorem State.setFb_keys (fb : Framebuffer) : (s.setFb fb).keys = s.keys := rfl
@[simp] theorem State.setFb_status (fb : Framebuffer) : (s.setFb fb).status = s.status := rfl
@[simp] theorem State.setFb_waitX (fb : Framebuffer) : (s.setFb fb).waitX = s.waitX := rfl
@[simp] theorem State.setFb_waitPrev (fb : Framebuffer) : (s.setFb fb).waitPrev = s.waitPrev := rfl
@[simp] theorem State.setFb_loadOpen (fb : Framebuffer) : (s.setFb fb).loadOpen = s.loadOpen := rfl
@[simp] theorem State.setFb_draws (fb : Framebuffer) : (s.setFb fb).draws = s.draws := rfl
@[simp] theorem State.setFb_cfg (fb : Framebuffer) : (s.setFb fb).cfg = s.cfg := rfl
@[simp] theorem State.setFb_readV (fb : Framebuffer) (r : Reg) : (s.setFb fb).readV r = s.readV r := rfl
@[simp] theorem State.setFb_fetchWord (fb : Framebuffer) : (s.setFb fb).fetchWord = s.fetchWord := rfl

/-! ### storeBytes -/

@[simp] theorem State.storeBytes_v (a : Nat) (bs : List Byte) : (s.storeBytes a bs).v = s.v := rfl
@[simp] theorem State.storeBytes_i (a : Nat) (bs : List Byte) : (s.storeBytes a bs).i = s.i := rfl
@[simp] theorem State.storeBytes_pc (a : Nat) (bs : List Byte) : (s.storeBytes a bs).pc = s.pc := rfl
@[simp] theorem State.storeBytes_sp (a : Nat) (bs : List Byte) : (s.storeBytes a bs).sp = s.sp := rfl
@[simp] theorem State.storeBytes_stack (a : Nat) (bs : List Byte) : (s.storeBytes a bs).stack = s.stack := rfl
@[simp] theorem State.storeBytes_dt (a : Nat) (bs : List Byte) : (s.storeBytes a bs).dt = s.dt := rfl
@[simp] theorem State.storeBytes_st (a : Nat) (bs : List Byte) : (s.storeBytes a bs).st = s.st := rfl
@[simp] theorem State.storeBytes_fb (a : Nat) (bs : List Byte) : (s.storeBytes a bs).fb = s.fb := rfl
@[simp] theorem State.storeBytes_mem (a : Nat) (bs : List Byte) : (s.storeBytes a bs).mem = s.mem.writeBytes a bs := rfl
@[simp] theorem State.storeBytes_keys (a : Nat) (bs : List Byte) : (s.storeBytes a bs).keys = s.keys := rfl
@[simp] theorem State.storeBytes_status (a : Nat) (bs : List Byte) : (s.storeBytes a bs).status = s.status := rfl
@[simp] theorem State.storeBytes_waitX (a : Nat) (bs : List Byte) : (s.storeBytes a bs).waitX = s.waitX := rfl
@[simp] theorem State.storeBytes_waitPrev (a : Nat) (bs : List Byte) : (s.storeBytes a bs).waitPrev = s.waitPrev := rfl
@[simp] theorem State.storeBytes_loadOpen (a : Nat) (bs : List Byte) : (s.storeBytes a bs).loadOpen = s.loadOpen := rfl
@[simp] theorem State.storeBytes_draws (a : Nat) (bs : List Byte) : (s.storeBytes a bs).draws = s.draws := rfl
@[simp] theorem State.storeBytes_cfg (a : Nat) (bs : List Byte) : (s.storeBytes a bs).cfg = s.cfg := rfl
@[simp] theorem State.storeBytes_readV (a : Nat) (bs : List Byte) (r : Reg) : (s.storeBytes a bs).readV r = s.readV r := rfl
@[simp] theorem State.storeBytes_pixelAt (a : Nat) (bs : List Byte) (px py : Nat) : (s.storeBytes a bs).pixelAt px py = s.pixelAt px py := rfl

/-! ### push -/

@[simp] theorem State.push_v : s.push.v = s.v := rfl
@[simp] theorem State.push_i : s.push.i = s.i := rfl
@[simp] theorem State.push_pc : s.push.pc = s.pc := rfl
@[simp] theorem State.push_sp : s.push.sp = s.sp + 1 := rfl
@[simp] theorem State.push_stack : s.push.stack = s.stack.setIfInBounds s.sp.toNat s.pc := rfl
@[simp] theorem State.push_dt : s.push.dt = s.dt := rfl
@[simp] theorem State.push_st : s.push.st = s.st := rfl
@[simp] theorem State.push_fb : s.push.fb = s.fb := rfl
@[simp] theorem State.push_mem : s.push.mem = s.mem := rfl
@[simp] theorem State.push_keys : s.push.keys = s.keys := rfl
@[simp] theorem State.push_status : s.push.status = s.status := rfl
@[simp] theorem State.push_waitX : s.push.waitX = s.waitX := rfl
@[simp] theorem State.push_waitPrev : s.push.waitPrev = s.waitPrev := rfl
@[simp] theorem State.push_loadOpen : s.push.loadOpen = s.loadOpen := rfl
@[simp] theorem State.push_draws : s.push.draws = s.draws := rfl
@[simp] theorem State.push_cfg : s.push.cfg = s.cfg := rfl
@[simp] theorem State.push_readV (r : Reg) : s.push.readV r = s.readV r := rfl
@[simp] theorem State.push_pixelAt (px py : Nat) : s.push.pixelAt px py = s.pixelAt px py := rfl
@[simp] theorem State.push_fetchWord : s.push.fetchWord = s.fetchWord := rfl

/-! ### popTo -/

@[simp] theorem State.popTo_v (w : Word) : (s.popTo w).v = s.v := rfl
@[simp] theorem State.popTo_i (w : Word) : (s.popTo w).i = s.i := rfl
@[simp] theorem State.popTo_pc (w : Word) : (s.popTo w).pc = low12 w := rfl
@[simp] theorem State.popTo_sp (w : Word) : (s.popTo w).sp = s.sp - 1 := rfl
@[simp] theorem State.popTo_stack (w : Word) : (s.popTo w).stack = s.stack := rfl
@[simp] theorem State.popTo_dt (w : Word) : (s.popTo w).dt = s.dt := rfl
@[simp] theorem State.popTo_st (w : Word) : (s.popTo w).st = s.st := rfl
@[simp] theorem State.popTo_fb (w : Word) : (s.popTo w).fb = s.fb := rfl
@[simp] theorem State.popTo_mem (w : Word) : (s.popTo w).mem = s.mem := rfl
@[simp] theorem State.popTo_keys (w : Word) : (s.popTo w).keys = s.keys := rfl
@[simp] theorem State.popTo_status (w : Word) : (s.popTo w).status = s.status := rfl
@[simp] theorem State.popTo_waitX (w : Word) : (s.popTo w).waitX = s.waitX := rfl
@[simp] theorem State.popTo_waitPrev (w : Word) : (s.popTo w).waitPrev = s.waitPrev := rfl
@[simp] theorem State.popTo_loadOpen (w : Word) : (s.popTo w).loadOpen = s.loadOpen := rfl
@[simp] theorem State.popTo_draws (w : Word) : (s.popTo w).draws = s.draws := rfl
@[simp] theorem State.popTo_cfg (w : Word) : (s.popTo w).cfg = s.cfg := rfl
@[simp] theorem State.popTo_readV (w : Word) (r : Reg) : (s.popTo w).readV r = s.readV r := rfl
@[simp] theorem State.popTo_pixelAt (w : Word) (px py : Nat) : (s.popTo w).pixelAt px py = s.pixelAt px py := rfl

/-! ### countDraw -/

@[simp] theorem State.countDraw_v : (s.countDraw).v = s.v := rfl
@[simp] theorem State.countDraw_i : (s.countDraw).i = s.i := rfl
@[simp] theorem State.countDraw_pc : (s.countDraw).pc = s.pc := rfl
@[simp] theorem State.countDraw_sp : (s.countDraw).sp = s.sp := rfl
@[simp] theorem State.countDraw_stack : (s.countDraw).stack = s.stack := rfl
@[simp] theorem State.countDraw_dt : (s.countDraw).dt = s.dt := rfl
@[simp] theorem State.countDraw_st : (s.countDraw).st = s.st := rfl
@[simp] theorem State.countDraw_fb : (s.countDraw).fb = s.fb := rfl
@[simp] theorem State.countDraw_mem : (s.countDraw).mem = s.mem := rfl
@[simp] theorem State.countDraw_keys : (s.countDraw).keys = s.keys := rfl
@[simp] theorem State.countDraw_status : (s.countDraw).status = s.status := rfl
@[simp] theorem State.countDraw_waitX : (s.countDraw).waitX = s.waitX := rfl
@[simp] theorem State.countDraw_waitPrev : (s.countDraw).waitPrev = s.waitPrev := rfl
@[simp] theorem State.countDraw_loadOpen : (s.countDraw).loadOpen = s.loadOpen := rfl
@[simp] theorem State.countDraw_draws : (s.countDraw).draws = s.draws + 1 := rfl
@[simp] theorem State.countDraw_cfg : (s.countDraw).cfg = s.cfg := rfl
@[simp] theorem State.countDraw_readV (r : Reg) : (s.countDraw).readV r = s.readV r := rfl
@[simp] theorem State.countDraw_pixelAt (px py : Nat) : (s.countDraw).pixelAt px py = s.pixelAt px py := rfl
@[simp] theorem State.countDraw_fetchWord : (s.countDraw).fetchWord = s.fetchWord := rfl

/-! ### enterWait -/

@[simp] theorem State.enterWait_v (x : Reg) : (s.enterWait x).v = s.v := rfl
@[simp] theorem State.enterWait_i (x : Reg) : (s.enterWait x).i = s.i := rfl
@[simp] theorem State.enterWait_pc (x : Reg) : (s.enterWait x).pc = s.pc := rfl
@[simp] theorem State.enterWait_sp (x : Reg) : (s.enterWait x).sp = s.sp := rfl
@[simp] theorem State.enterWait_stack (x : Reg) : (s.enterWait x).stack = s.stack := rfl
@[simp] theorem State.enterWait_dt (x : Reg) : (s.enterWait x).dt = s.dt := rfl
@[simp] theorem State.enterWait_st (x : Reg) : (s.enterWait x).st = s.st := rfl
@[simp] theorem State.enterWait_fb (x : Reg) : (s.enterWait x).fb = s.fb := rfl
@[simp] theorem State.enterWait_mem (x : Reg) : (s.enterWait x).mem = s.mem := rfl
@[simp] theorem State.enterWait_keys (x : Reg) : (s.enterWait x).keys = s.keys := rfl
@[simp] theorem State.enterWait_status (x : Reg) : (s.enterWait x).status = .awaitingKey := rfl
@[simp] theorem State.enterWait_waitX (x : Reg) : (s.enterWait x).waitX = x := rfl
@[simp] theorem State.enterWait_waitPrev (x : Reg) : (s.enterWait x).waitPrev = s.keys := rfl
@[simp] theorem State.enterWait_loadOpen (x : Reg) : (s.enterWait x).loadOpen = s.loadOpen := rfl
@[simp] theorem State.enterWait_draws (x : Reg) : (s.enterWait x).draws = s.draws := rfl
@[simp] theorem State.enterWait_cfg (x : Reg) : (s.enterWait x).cfg = s.cfg := rfl
@[simp] theorem State.enterWait_readV (x : Reg) (r : Reg) : (s.enterWait x).readV r = s.readV r := rfl
@[simp] theorem State.enterWait_pixelAt (x : Reg) (px py : Nat) : (s.enterWait x).pixelAt px py = s.pixelAt px py := rfl
@[simp] theorem State.enterWait_fetchWord (x : Reg) : (s.enterWait x).fetchWord = s.fetchWord := rfl

/-! ### closeLoad -/

@[simp] theorem State.closeLoad_v : (s.closeLoad).v = s.v := rfl
@[simp] theorem State.closeLoad_i : (s.closeLoad).i = s.i := rfl
@[simp] theorem State.closeLoad_pc : (s.closeLoad).pc = s.pc := rfl
@[simp] theorem State.closeLoad_sp : (s.closeLoad).sp = s.sp := rfl
@[simp] theorem State.closeLoad_stack : (s.closeLoad).stack = s.stack := rfl
@[simp] theorem State.closeLoad_dt : (s.closeLoad).dt = s.dt := rfl
@[simp] theorem State.closeLoad_st : (s.closeLoad).st = s.st := rfl
@[simp] theorem State.closeLoad_fb : (s.closeLoad).fb = s.fb := rfl
@[simp] theorem State.closeLoad_mem : (s.closeLoad).mem = s.mem := rfl
@[simp] theorem State.closeLoad_keys : (s.closeLoad).keys = s.keys := rfl
@[simp] theorem State.closeLoad_status : (s.closeLoad).status = s.status := rfl
@[simp] theorem State.closeLoad_waitX : (s.closeLoad).waitX = s.waitX := rfl
@[simp] theorem State.closeLoad_waitPrev : (s.closeLoad).waitPrev = s.waitPrev := rfl
@[simp] theorem State.closeLoad_loadOpen : (s.closeLoad).loadOpen = false := rfl
@[simp] theorem State.closeLoad_draws : (s.closeLoad).draws = s.draws := rfl
@[simp] theorem State.closeLoad_cfg : (s.closeLoad).cfg = s.cfg := rfl
@[simp] theorem State.closeLoad_readV (r : Reg) : (s.closeLoad).readV r = s.readV r := rfl
@[simp] theorem State.closeLoad_pixelAt (px py : Nat) : (s.closeLoad).pixelAt px py = s.pixelAt px py := rfl
@[simp] theorem State.closeLoad_fetchWord : (s.closeLoad).fetchWord = s.fetchWord := rfl

/-! ### takeFault -/

@[simp] theorem State.takeFault_v (k : FaultKind) (w : Word) : (s.takeFault k w).v = s.v := rfl
@[simp] theorem State.takeFault_i (k : FaultKind) (w : Word) : (s.takeFault k w).i = s.i := rfl
@[simp] theorem State.takeFault_pc (k : FaultKind) (w : Word) : (s.takeFault k w).pc = s.pc := rfl
@[simp] theorem State.takeFault_sp (k : FaultKind) (w : Word) : (s.takeFault k w).sp = s.sp := rfl
@[simp] theorem State.takeFault_stack (k : FaultKind) (w : Word) : (s.takeFault k w).stack = s.stack := rfl
@[simp] theorem State.takeFault_dt (k : FaultKind) (w : Word) : (s.takeFault k w).dt = s.dt := rfl
@[simp] theorem State.takeFault_st (k : FaultKind) (w : Word) : (s.takeFault k w).st = s.st := rfl
@[simp] theorem State.takeFault_fb (k : FaultKind) (w : Word) : (s.takeFault k w).fb = s.fb := rfl
@[simp] theorem State.takeFault_mem (k : FaultKind) (w : Word) : (s.takeFault k w).mem = s.mem := rfl
@[simp] theorem State.takeFault_keys (k : FaultKind) (w : Word) : (s.takeFault k w).keys = s.keys := rfl
@[simp] theorem State.takeFault_status (k : FaultKind) (w : Word) : (s.takeFault k w).status = .halted { kind := k, word := w, fpc := s.pc.setWidth 12 } := rfl
@[simp] theorem State.takeFault_waitX (k : FaultKind) (w : Word) : (s.takeFault k w).waitX = s.waitX := rfl
@[simp] theorem State.takeFault_waitPrev (k : FaultKind) (w : Word) : (s.takeFault k w).waitPrev = s.waitPrev := rfl
@[simp] theorem State.takeFault_loadOpen (k : FaultKind) (w : Word) : (s.takeFault k w).loadOpen = s.loadOpen := rfl
@[simp] theorem State.takeFault_draws (k : FaultKind) (w : Word) : (s.takeFault k w).draws = s.draws := rfl
@[simp] theorem State.takeFault_cfg (k : FaultKind) (w : Word) : (s.takeFault k w).cfg = s.cfg := rfl
@[simp] theorem State.takeFault_readV (k : FaultKind) (w : Word) (r : Reg) : (s.takeFault k w).readV r = s.readV r := rfl
@[simp] theorem State.takeFault_pixelAt (k : FaultKind) (w : Word) (px py : Nat) : (s.takeFault k w).pixelAt px py = s.pixelAt px py := rfl
@[simp] theorem State.takeFault_fetchWord (k : FaultKind) (w : Word) : (s.takeFault k w).fetchWord = s.fetchWord := rfl

/-! ### writeVThenFlag -/

@[simp] theorem State.writeVThenFlag_v (x : Reg) (b : Byte) (c : Bool) : (s.writeVThenFlag x b c).v = (s.v.set x.toNat b).set regVF.toNat (flagByte c) := rfl
@[simp] theorem State.writeVThenFlag_i (x : Reg) (b : Byte) (c : Bool) : (s.writeVThenFlag x b c).i = s.i := rfl
@[simp] theorem State.writeVThenFlag_pc (x : Reg) (b : Byte) (c : Bool) : (s.writeVThenFlag x b c).pc = s.pc := rfl
@[simp] theorem State.writeVThenFlag_sp (x : Reg) (b : Byte) (c : Bool) : (s.writeVThenFlag x b c).sp = s.sp := rfl
@[simp] theorem State.writeVThenFlag_stack (x : Reg) (b : Byte) (c : Bool) : (s.writeVThenFlag x b c).stack = s.stack := rfl
@[simp] theorem State.writeVThenFlag_dt (x : Reg) (b : Byte) (c : Bool) : (s.writeVThenFlag x b c).dt = s.dt := rfl
@[simp] theorem State.writeVThenFlag_st (x : Reg) (b : Byte) (c : Bool) : (s.writeVThenFlag x b c).st = s.st := rfl
@[simp] theorem State.writeVThenFlag_fb (x : Reg) (b : Byte) (c : Bool) : (s.writeVThenFlag x b c).fb = s.fb := rfl
@[simp] theorem State.writeVThenFlag_mem (x : Reg) (b : Byte) (c : Bool) : (s.writeVThenFlag x b c).mem = s.mem := rfl
@[simp] theorem State.writeVThenFlag_keys (x : Reg) (b : Byte) (c : Bool) : (s.writeVThenFlag x b c).keys = s.keys := rfl
@[simp] theorem State.writeVThenFlag_status (x : Reg) (b : Byte) (c : Bool) : (s.writeVThenFlag x b c).status = s.status := rfl
@[simp] theorem State.writeVThenFlag_waitX (x : Reg) (b : Byte) (c : Bool) : (s.writeVThenFlag x b c).waitX = s.waitX := rfl
@[simp] theorem State.writeVThenFlag_waitPrev (x : Reg) (b : Byte) (c : Bool) : (s.writeVThenFlag x b c).waitPrev = s.waitPrev := rfl
@[simp] theorem State.writeVThenFlag_loadOpen (x : Reg) (b : Byte) (c : Bool) : (s.writeVThenFlag x b c).loadOpen = s.loadOpen := rfl
@[simp] theorem State.writeVThenFlag_draws (x : Reg) (b : Byte) (c : Bool) : (s.writeVThenFlag x b c).draws = s.draws := rfl
@[simp] theorem State.writeVThenFlag_cfg (x : Reg) (b : Byte) (c : Bool) : (s.writeVThenFlag x b c).cfg = s.cfg := rfl
@[simp] theorem State.writeVThenFlag_pixelAt (x : Reg) (b : Byte) (c : Bool) (px py : Nat) : (s.writeVThenFlag x b c).pixelAt px py = s.pixelAt px py := rfl
@[simp] theorem State.writeVThenFlag_fetchWord (x : Reg) (b : Byte) (c : Bool) : (s.writeVThenFlag x b c).fetchWord = s.fetchWord := rfl

/-! ### tick -/

@[simp] theorem State.tick_v : (s.tick).v = s.v := rfl
@[simp] theorem State.tick_i : (s.tick).i = s.i := rfl
@[simp] theorem State.tick_pc : (s.tick).pc = s.pc := rfl
@[simp] theorem State.tick_sp : (s.tick).sp = s.sp := rfl
@[simp] theorem State.tick_stack : (s.tick).stack = s.stack := rfl
@[simp] theorem State.tick_dt : (s.tick).dt = decrementTimer s.dt := rfl
@[simp] theorem State.tick_st : (s.tick).st = decrementTimer s.st := rfl
@[simp] theorem State.tick_fb : (s.tick).fb = s.fb := rfl
@[simp] theorem State.tick_mem : (s.tick).mem = s.mem := rfl
@[simp] theorem State.tick_keys : (s.tick).keys = s.keys := rfl
@[simp] theorem State.tick_status : (s.tick).status = s.status := rfl
@[simp] theorem State.tick_waitX : (s.tick).waitX = s.waitX := rfl
@[simp] theorem State.tick_waitPrev : (s.tick).waitPrev = s.waitPrev := rfl
@[simp] theorem State.tick_loadOpen : (s.tick).loadOpen = s.loadOpen := rfl
@[simp] theorem State.tick_draws : (s.tick).draws = s.draws := rfl
@[simp] theorem State.tick_cfg : (s.tick).cfg = s.cfg := rfl
@[simp] theorem State.tick_readV (r : Reg) : (s.tick).readV r = s.readV r := rfl
@[simp] theorem State.tick_pixelAt (px py : Nat) : (s.tick).pixelAt px py = s.pixelAt px py := rfl
@[simp] theorem State.tick_fetchWord : (s.tick).fetchWord = s.fetchWord := rfl

/-! ### setKeys -/

@[simp] theorem State.setKeys_v (k : Word) : (s.setKeys k).v = s.v := rfl
@[simp] theorem State.setKeys_i (k : Word) : (s.setKeys k).i = s.i := rfl
@[simp] theorem State.setKeys_pc (k : Word) : (s.setKeys k).pc = s.pc := rfl
@[simp] theorem State.setKeys_sp (k : Word) : (s.setKeys k).sp = s.sp := rfl
@[simp] theorem State.setKeys_stack (k : Word) : (s.setKeys k).stack = s.stack := rfl
@[simp] theorem State.setKeys_dt (k : Word) : (s.setKeys k).dt = s.dt := rfl
@[simp] theorem State.setKeys_st (k : Word) : (s.setKeys k).st = s.st := rfl
@[simp] theorem State.setKeys_fb (k : Word) : (s.setKeys k).fb = s.fb := rfl
@[simp] theorem State.setKeys_mem (k : Word) : (s.setKeys k).mem = s.mem := rfl
@[simp] theorem State.setKeys_keys (k : Word) : (s.setKeys k).keys = k := rfl
@[simp] theorem State.setKeys_status (k : Word) : (s.setKeys k).status = s.status := rfl
@[simp] theorem State.setKeys_waitX (k : Word) : (s.setKeys k).waitX = s.waitX := rfl
@[simp] theorem State.setKeys_waitPrev (k : Word) : (s.setKeys k).waitPrev = s.waitPrev := rfl
@[simp] theorem State.setKeys_loadOpen (k : Word) : (s.setKeys k).loadOpen = s.loadOpen := rfl
@[simp] theorem State.setKeys_draws (k : Word) : (s.setKeys k).draws = s.draws := rfl
@[simp] theorem State.setKeys_cfg (k : Word) : (s.setKeys k).cfg = s.cfg := rfl
@[simp] theorem State.setKeys_readV (k : Word) (r : Reg) : (s.setKeys k).readV r = s.readV r := rfl
@[simp] theorem State.setKeys_pixelAt (k : Word) (px py : Nat) : (s.setKeys k).pixelAt px py = s.pixelAt px py := rfl
@[simp] theorem State.setKeys_fetchWord (k : Word) : (s.setKeys k).fetchWord = s.fetchWord := rfl

/-! ### skipIf -/

@[simp] theorem State.skipIf_pc (c : Bool) : (s.skipIf c).pc = if c then low12 (s.pc + 2) else s.pc := by
  cases c <;> rfl
@[simp] theorem State.skipIf_v (c : Bool) : (s.skipIf c).v = s.v := by cases c <;> rfl
@[simp] theorem State.skipIf_i (c : Bool) : (s.skipIf c).i = s.i := by cases c <;> rfl
@[simp] theorem State.skipIf_sp (c : Bool) : (s.skipIf c).sp = s.sp := by cases c <;> rfl
@[simp] theorem State.skipIf_stack (c : Bool) : (s.skipIf c).stack = s.stack := by cases c <;> rfl
@[simp] theorem State.skipIf_dt (c : Bool) : (s.skipIf c).dt = s.dt := by cases c <;> rfl
@[simp] theorem State.skipIf_st (c : Bool) : (s.skipIf c).st = s.st := by cases c <;> rfl
@[simp] theorem State.skipIf_fb (c : Bool) : (s.skipIf c).fb = s.fb := by cases c <;> rfl
@[simp] theorem State.skipIf_mem (c : Bool) : (s.skipIf c).mem = s.mem := by cases c <;> rfl
@[simp] theorem State.skipIf_keys (c : Bool) : (s.skipIf c).keys = s.keys := by cases c <;> rfl
@[simp] theorem State.skipIf_status (c : Bool) : (s.skipIf c).status = s.status := by cases c <;> rfl
@[simp] theorem State.skipIf_waitX (c : Bool) : (s.skipIf c).waitX = s.waitX := by cases c <;> rfl
@[simp] theorem State.skipIf_waitPrev (c : Bool) : (s.skipIf c).waitPrev = s.waitPrev := by cases c <;> rfl
@[simp] theorem State.skipIf_loadOpen (c : Bool) : (s.skipIf c).loadOpen = s.loadOpen := by cases c <;> rfl
@[simp] theorem State.skipIf_draws (c : Bool) : (s.skipIf c).draws = s.draws := by cases c <;> rfl
@[simp] theorem State.skipIf_cfg (c : Bool) : (s.skipIf c).cfg = s.cfg := by cases c <;> rfl
@[simp] theorem State.skipIf_readV (c : Bool) (r : Reg) : (s.skipIf c).readV r = s.readV r := by cases c <;> rfl
@[simp] theorem State.skipIf_pixelAt (c : Bool) (px py : Nat) : (s.skipIf c).pixelAt px py = s.pixelAt px py := by
  cases c <;> rfl

/-! ### Registers -/

/-- A register write is seen by a read of that register and by no other. -/
@[simp] theorem State.readV_writeV (x r : Reg) (b : Byte) :
    (s.writeV x b).readV r = if r = x then b else s.readV r := by
  simp only [State.readV, State.writeV, Vector.getElem_set]
  by_cases h : r = x
  · simp [h]
  · have : ¬ x.toNat = r.toNat := fun e => h (BitVec.eq_of_toNat_eq e.symm)
    simp [h, this]

/-- The order of R103: VF ends with the flag, V[x] (x other than F) with the result. -/
@[simp] theorem State.readV_writeVThenFlag (x r : Reg) (b : Byte) (c : Bool) :
    (s.writeVThenFlag x b c).readV r =
      if r = regVF then flagByte c else if r = x then b else s.readV r := by
  simp [State.writeVThenFlag]

/-- A framebuffer read through setFb. -/
@[simp] theorem State.setFb_pixelAt (fb : Framebuffer) (px py : Nat) :
    (s.setFb fb).pixelAt px py = fb.pixelAt px py := rfl

/-! ### Reset -/

@[simp] theorem State.resetCore_cfg : s.resetCore.cfg = s.cfg := rfl
@[simp] theorem State.resetCore_keys : s.resetCore.keys = s.keys := rfl
@[simp] theorem State.resetCore_draws : s.resetCore.draws = s.draws := rfl
@[simp] theorem State.resetCore_mem : s.resetCore.mem = Memory.resetImage s.cfg := by
  simp only [State.resetCore]
@[simp] theorem State.resetCore_status : s.resetCore.status = .running := rfl
@[simp] theorem State.resetCore_loadOpen : s.resetCore.loadOpen = true := rfl
@[simp] theorem State.resetCore_v : s.resetCore.v = Vector.replicate 16 0 := rfl
@[simp] theorem State.resetCore_i : s.resetCore.i = 0x000 := rfl
@[simp] theorem State.resetCore_pc : s.resetCore.pc = 0x200 := rfl
@[simp] theorem State.resetCore_sp : s.resetCore.sp = 0 := rfl
@[simp] theorem State.resetCore_stack : s.resetCore.stack = Vector.replicate 16 0 := rfl
@[simp] theorem State.resetCore_dt : s.resetCore.dt = 0 := rfl
@[simp] theorem State.resetCore_st : s.resetCore.st = 0 := rfl
@[simp] theorem State.resetCore_fb : s.resetCore.fb = Vector.replicate 32 0 := rfl
@[simp] theorem State.resetCore_waitX : s.resetCore.waitX = 0 := rfl
@[simp] theorem State.resetCore_waitPrev : s.resetCore.waitPrev = 0 := rfl

/-- A record equation field by field. -/
theorem State.ext_fields {s t : State} (v : t.v = s.v) (i : t.i = s.i) (pc : t.pc = s.pc) (sp : t.sp = s.sp)
    (stack : t.stack = s.stack) (dt : t.dt = s.dt) (st : t.st = s.st) (fb : t.fb = s.fb) (mem : t.mem = s.mem)
    (keys : t.keys = s.keys) (status : t.status = s.status) (waitX : t.waitX = s.waitX)
    (waitPrev : t.waitPrev = s.waitPrev) (loadOpen : t.loadOpen = s.loadOpen) (draws : t.draws = s.draws)
    (cfg : t.cfg = s.cfg) : t = s := by
  cases s; cases t; simp_all

end

end Sys2Proof.Machine
end

