-- ==== Sys2Proof/Laws/Step.lean ====
section
/-! SUPPORT. What a step, a wait step, a load, RET and CALL can do, said once. -/

namespace Sys2Proof.Machine

/-! ## The awaiting-key step -/

theorem lowestKeyFrom_some {fresh : Word} {k n : Nat} (hkn : k + n ≤ 16) {d : Nibble}
    (h : lowestKeyFrom fresh k n = some d) :
    fresh.getLsbD d.toNat = true ∧ k ≤ d.toNat ∧ ∀ j, k ≤ j → j < d.toNat → fresh.getLsbD j = false := by
  induction n generalizing k with
  | zero => simp [lowestKeyFrom] at h
  | succ n ih =>
    unfold lowestKeyFrom at h
    split at h
    · rename_i hk
      obtain rfl := Option.some.inj h
      have : (BitVec.ofNat 4 k).toNat = k := by simp; omega
      refine ⟨by rwa [this], by omega, ?_⟩
      intro j h1 h2
      omega
    · rename_i hk
      obtain ⟨h1, h2, h3⟩ := ih (by omega) h
      refine ⟨h1, by omega, fun j hj hjd => ?_⟩
      by_cases hjk : j = k
      · subst hjk; simpa using hk
      · exact h3 j (by omega) hjd

theorem lowestKeyFrom_none {fresh : Word} {k n : Nat} (h : lowestKeyFrom fresh k n = none) :
    ∀ j, k ≤ j → j < k + n → fresh.getLsbD j = false := by
  induction n generalizing k with
  | zero => intro j h1 h2; omega
  | succ n ih =>
    unfold lowestKeyFrom at h
    split at h
    · simp at h
    · rename_i hk
      intro j h1 h2
      by_cases hjk : j = k
      · subst hjk; simpa using hk
      · exact ih h j (by omega) (by omega)

/-- The lowest key number with its bit set (45_input_timer.md R132). -/
theorem lowestKey_some {fresh : Word} {d : Nibble} (h : lowestKey fresh = some d) :
    fresh.getLsbD d.toNat = true ∧ ∀ j, j < d.toNat → fresh.getLsbD j = false := by
  obtain ⟨h1, -, h3⟩ := lowestKeyFrom_some (by norm_num) h
  exact ⟨h1, fun j hj => h3 j (Nat.zero_le j) hj⟩

/-- No key is found exactly when no bit is set. -/
theorem lowestKey_none {fresh : Word} : lowestKey fresh = none ↔ fresh = 0 := by
  constructor
  · intro h
    apply BitVec.eq_of_getLsbD_eq
    intro j hj
    simpa using lowestKeyFrom_none h j (Nat.zero_le j) (by omega)
  · rintro rfl
    rfl

/-- A wait step either remembers the latch, or writes the lowest fresh key and runs on. -/
theorem State.waitStep_cases (s : State) :
    (s.freshKeys = 0 ∧ s.waitStep = { s with waitPrev := s.keys }) ∨
    (∃ d, lowestKey s.freshKeys = some d ∧
      s.waitStep = { s.writeV s.waitX (keyByte d) with status := .running }) := by
  cases h : lowestKey s.freshKeys with
  | none => exact .inl ⟨lowestKey_none.mp h, by simp [State.waitStep, h]⟩
  | some d => exact .inr ⟨d, rfl, by simp [State.waitStep, h]⟩

/-! ## RET and CALL -/

/-- What CALL can do. -/
theorem execCall_cases (nnn : Word) (s : State) :
    (s.sp = 16 ∧ execCall nnn s = .next (s.takeFault .stackOverflow (encode (.call nnn)))) ∨
    (s.sp.toNat < 16 ∧ execCall nnn s = .next (s.advance.push.setPc nnn)) ∨
    (16 < s.sp.toNat ∧ execCall nnn s = .fault .noSuchStackEntry) := by
  unfold execCall
  by_cases h16 : s.sp = 16
  · exact .inl ⟨h16, if_pos h16⟩
  · by_cases h : s.sp.toNat < 16
    · exact .inr (.inl ⟨h, by rw [if_neg h16, if_pos h]⟩)
    · refine .inr (.inr ⟨?_, by rw [if_neg h16, if_neg h]⟩)
      have : s.sp.toNat ≠ 16 := fun e => h16 (BitVec.eq_of_toNat_eq e)
      omega

/-- A pop's new sp, below a nonzero sp. -/
theorem sp_sub_one_toNat {sp : Byte} (h : sp ≠ 0) : (sp - 1).toNat = sp.toNat - 1 := by
  have h0 : sp.toNat ≠ 0 := fun e => h (BitVec.eq_of_toNat_eq (by simpa using e))
  have h1 : (1 : Byte).toNat = 1 := rfl
  rw [BitVec.toNat_sub, h1]
  omega

/-- A push's new sp, below 16. -/
theorem sp_add_one_toNat {sp : Byte} (h : sp.toNat < 16) : (sp + 1).toNat = sp.toNat + 1 := by
  have h1 : (1 : Byte).toNat = 1 := rfl
  rw [BitVec.toNat_add, h1]
  omega

/-- The entry a pop reads, above an empty stack. -/
theorem State.topEntry_eq {s : State} (h : s.sp ≠ 0) : s.topEntry = s.stack[s.sp.toNat - 1]? := by
  unfold State.topEntry
  rw [sp_sub_one_toNat h]

/-- What RET can do. -/
theorem execRet_cases (s : State) :
    (s.sp = 0 ∧ execRet s = .next (s.takeFault .stackUnderflow (encode .ret))) ∨
    (s.sp ≠ 0 ∧ ∃ h : s.sp.toNat - 1 < 16, execRet s = .next (s.advance.popTo s.stack[s.sp.toNat - 1])) ∨
    (16 < s.sp.toNat ∧ execRet s = .fault .noSuchStackEntry) := by
  unfold execRet
  by_cases h0 : s.sp = 0
  · exact .inl ⟨h0, if_pos h0⟩
  · by_cases h : s.sp.toNat - 1 < 16
    · exact .inr (.inl ⟨h0, h, by rw [if_neg h0, State.topEntry_eq h0, Vector.getElem?_eq_getElem h]⟩)
    · exact .inr (.inr ⟨by omega, by rw [if_neg h0, State.topEntry_eq h0, Vector.getElem?_eq_none (by omega)]⟩)

/-! ## A step -/

/-- What a step that answers a next state has done. -/
theorem step_cases {s t : State} (h : step s = .next t) :
    (∃ r, s.status = .halted r ∧ t = s.closeLoad) ∨
    (s.status = .awaitingKey ∧ t = s.closeLoad.waitStep) ∨
    (s.status = .running ∧ decode s.fetchWord = none ∧
      t = s.closeLoad.takeFault .unknownInstruction s.fetchWord) ∨
    (s.status = .running ∧ ∃ i, decode s.fetchWord = some i ∧ exec i s.closeLoad = .next t) := by
  unfold step at h
  split at h
  · rename_i r hr
    exact .inl ⟨r, hr, by cases h; rfl⟩
  · rename_i hr
    exact .inr (.inl ⟨hr, by cases h; rfl⟩)
  · rename_i hr
    unfold cycle at h
    rw [State.closeLoad_fetchWord] at h
    split at h
    · rename_i i hi
      exact .inr (.inr (.inr ⟨hr, i, hi, h⟩))
    · rename_i hn
      exact .inr (.inr (.inl ⟨hr, hn, by cases h; rfl⟩))

/-! ## A load -/

/-- A load is taken whole or changes nothing (70_reset_and_hazards.md R158). -/
theorem State.load_cases (s : State) (rom : List Byte) :
    (s.loadOpen = true ∧ rom.length ≤ progMax ∧
      s.load rom = ({ s with mem := s.mem.writeBytes progBase rom, loadOpen := false }, .ok)) ∨
    ((s.loadOpen = false ∨ progMax < rom.length) ∧ s.load rom = (s, .loadError)) := by
  unfold State.load
  split
  · rename_i h
    simp only [State.acceptsLoad, Bool.and_eq_true, decide_eq_true_eq] at h
    exact .inl ⟨h.1, h.2, rfl⟩
  · rename_i h
    refine .inr ⟨?_, rfl⟩
    simp only [State.acceptsLoad, Bool.and_eq_true, decide_eq_true_eq, not_and, not_le] at h
    cases hl : s.loadOpen
    · exact .inl rfl
    · exact .inr (h hl)

end Sys2Proof.Machine
end

