-- ==== Sys2Proof/Tests/Slice0.lean ====
section
/-! SUPPORT. Tests: the well-formedness check, decoding of words written out from 30_encoding.md R69 and R72, one step
of each instruction against the vectors of 95_test_vectors.md (their ids stand before each test), and a witness for the
hypotheses of each obligation that has some. No expected value comes from the model. -/

namespace Sys2Proof.Tests

open Sys2Proof.Machine

/-! ## WellFormed: one ill-formed term for each check -/

theorem test_wf_refuses_jp : (Instr.jp 0x1000).wf = false := by decide
theorem test_wf_refuses_call : (Instr.call 0xF200).wf = false := by decide
theorem test_wf_refuses_ldI : (Instr.ldI 0x8000).wf = false := by decide
theorem test_wf_refuses_jpV0 : (Instr.jpV0 0xFFFF).wf = false := by decide
theorem test_wf_takes_addresses :
    (Instr.jp 0xFFF).wf = true ∧ (Instr.call 0x000).wf = true ∧ (Instr.ldI 0xFFF).wf = true ∧
    (Instr.jpV0 0x000).wf = true := by decide

/-! ## Decoding: one word for every constructor, its fields laid out by hand -/

theorem test_decode_cls : decode 0b0000000011100000 = some .cls := by decide
theorem test_decode_ret : decode 0b0000000011101110 = some .ret := by decide
theorem test_decode_jp : decode 0b0001101010111100 = some (.jp 0xABC) := by decide
theorem test_decode_call : decode 0b0010001000010000 = some (.call 0x210) := by decide
theorem test_decode_seByte : decode 0b0011001100000101 = some (.seByte 3 0x05) := by decide
theorem test_decode_sneByte : decode 0b0100001100000110 = some (.sneByte 3 0x06) := by decide
theorem test_decode_seReg : decode 0b0101000100100000 = some (.seReg 1 2) := by decide
theorem test_decode_ldByte : decode 0b0110101001111011 = some (.ldByte 0xA 0x7B) := by decide
theorem test_decode_addByte : decode 0b0111101000001010 = some (.addByte 0xA 0x0A) := by decide
theorem test_decode_ldReg : decode 0b1000000100100000 = some (.ldReg 1 2) := by decide
theorem test_decode_orReg : decode 0b1000000100100001 = some (.orReg 1 2) := by decide
theorem test_decode_andReg : decode 0b1000000100100010 = some (.andReg 1 2) := by decide
theorem test_decode_xorReg : decode 0b1000000100100011 = some (.xorReg 1 2) := by decide
theorem test_decode_addReg : decode 0b1000000100100100 = some (.addReg 1 2) := by decide
theorem test_decode_sub : decode 0b1000000100100101 = some (.sub 1 2) := by decide
theorem test_decode_shr : decode 0b1000000110100110 = some (.shr 1 0xA) := by decide
theorem test_decode_subn : decode 0b1000000100100111 = some (.subn 1 2) := by decide
theorem test_decode_shl : decode 0b1000000100101110 = some (.shl 1 2) := by decide
theorem test_decode_sneReg : decode 0b1001000100100000 = some (.sneReg 1 2) := by decide
theorem test_decode_ldI : decode 0b1010000100100011 = some (.ldI 0x123) := by decide
theorem test_decode_jpV0 : decode 0b1011010001010110 = some (.jpV0 0x456) := by decide
theorem test_decode_rnd : decode 0b1100001100001111 = some (.rnd 3 0x0F) := by decide
theorem test_decode_drw : decode 0b1101000000010101 = some (.drw 0 1 5) := by decide
theorem test_decode_skp : decode 0b1110000110011110 = some (.skp 1) := by decide
theorem test_decode_sknp : decode 0b1110000110100001 = some (.sknp 1) := by decide
theorem test_decode_ldVxDt : decode 0b1111001100000111 = some (.ldVxDt 3) := by decide
theorem test_decode_ldVxK : decode 0b1111001100001010 = some (.ldVxK 3) := by decide
theorem test_decode_ldDtVx : decode 0b1111001100010101 = some (.ldDtVx 3) := by decide
theorem test_decode_ldStVx : decode 0b1111001100011000 = some (.ldStVx 3) := by decide
theorem test_decode_addIVx : decode 0b1111001000011110 = some (.addIVx 2) := by decide
theorem test_decode_ldFVx : decode 0b1111001000101001 = some (.ldFVx 2) := by decide
theorem test_decode_ldBVx : decode 0b1111001100110011 = some (.ldBVx 3) := by decide
theorem test_decode_ldMemVx : decode 0b1111001001010101 = some (.ldMemVx 2) := by decide
theorem test_decode_ldVxMem : decode 0b1111001001100101 = some (.ldVxMem 2) := by decide

/-- The unknown words of F19, F23, A31, A32, K6 and X1 to X6. -/
theorem test_decode_refuses_unknown :
    ([0x5121, 0x9128, 0x8128, 0x812F, 0xE19F, 0x0000, 0x0123, 0x00E1, 0xF308, 0xF356, 0xFFFF] : List Word).all
      (fun w => decode w == none) = true := by decide

/-- L1-14: bytes 6A 7B are the word 0x6A7B, and the rest of the bytes comes back. -/
theorem test_decodeBytes_big_endian : decodeBytes [0x6A, 0x7B, 0x12] = .ok (.ldByte 0xA 0x7B, [0x12]) := by decide
theorem test_decodeBytes_names_its_refusals :
    decodeBytes [0xFF, 0xFF] = .error (.unknownInstruction 0xFFFF) ∧ decodeBytes [0x6A] = .error .truncated ∧
    decodeBytes [] = .error .truncated := by decide
theorem test_decodeTableWord :
    decodeTableWord 16 0xD015 = some (.drw 0 1 5) ∧ decodeTableWord 16 0xFFFF = none := by decide

/-- Encodings of P2 and P4 (95_test_vectors.md L3). -/
theorem test_encode_words :
    encode (.ldByte 0xA 0x7B) = 0x6A7B ∧ encode (.call 0x210) = 0x2210 ∧ encode (.ldVxMem 2) = 0xF265 ∧
    encode (.subn 0xF 1) = 0x8F17 ∧ encode (.shl 0 0) = 0x800E := by decide

/-! ## One step of each instruction -/

/-- The state after one step that runs the word `w` at pc; none where the step stops. -/
def after (w : Nat) (s : State) : Option State :=
  match step (s.withFetchWord 16 w) with
  | .next t => some t
  | .fault _ => none
  | .refused _ => none

/-- The reset state with registers written. -/
def regs (rs : List (Reg × Byte)) : State := rs.foldl (fun s r => s.writeV r.1 r.2) State.reset

/-- `n` return addresses on the stack, each 0x206. -/
def calls (n : Byte) : State := { State.reset with sp := n, stack := Vector.replicate 16 0x206 }

/-- Bytes put in memory. -/
def bytes (a : Nat) (bs : List Byte) (s : State) : State := { s with mem := s.mem.writeBytes a bs }

/-- The result of a step that faulted. -/
def fatal (k : FaultKind) (w : Word) (fpc : BitVec 12) : Response := .fatal { kind := k, word := w, fpc := fpc }

-- F1, F2
theorem test_ret : (after 0x00EE { calls 1 with pc := 0x212 }).map (fun t => (t.pc, t.sp)) = some (0x206, 0) := by decide
theorem test_ret_underflow : (after 0x00EE (calls 0)).map (fun t => (t.stepResult, t.pc, t.sp)) =
    some (fatal .stackUnderflow 0x00EE 0x200, 0x200, 0) := by decide
-- F3
theorem test_jp : (after 0x1ABC State.reset).map (fun t => t.pc) = some 0xABC := by decide
-- F7, F9
theorem test_call_pushes_wrapped_pc : (after 0x2300 { State.reset with pc := 0xFFE }).map
    (fun t => (t.pc, t.sp, t.stack[0])) = some (0x300, 1, 0x000) := by decide
theorem test_call_overflow : (after 0x2400 (calls 16)).map (fun t => (t.stepResult, t.pc, t.sp)) =
    some (fatal .stackOverflow 0x2400 0x200, 0x200, 16) := by decide
-- F12, F11
theorem test_seByte_skip_wraps : (after 0x3000 { State.reset with pc := 0xFFE }).map (fun t => t.pc) = some 0x002 := by
  decide
theorem test_seByte_no_skip : (after 0x3306 { regs [(3, 0x05)] with pc := 0x204 }).map (fun t => t.pc) = some 0x206 := by
  decide
-- F14, F15
theorem test_sneByte_no_skip : (after 0x4305 { regs [(3, 0x05)] with pc := 0x204 }).map (fun t => t.pc) = some 0x206 := by
  decide
theorem test_sneByte_skip : (after 0x4306 { regs [(3, 0x05)] with pc := 0x204 }).map (fun t => t.pc) = some 0x208 := by
  decide
-- F16, F17
theorem test_seReg_skip : (after 0x5120 (regs [(1, 0x10), (2, 0x10)])).map (fun t => t.pc) = some 0x204 := by decide
theorem test_seReg_no_skip : (after 0x5120 (regs [(1, 0x10), (2, 0x11)])).map (fun t => t.pc) = some 0x202 := by decide
-- F20, F21
theorem test_sneReg_skip : (after 0x9120 (regs [(1, 0x10), (2, 0x11)])).map (fun t => t.pc) = some 0x204 := by decide
theorem test_sneReg_no_skip : (after 0x9120 (regs [(1, 0x10), (2, 0x10)])).map (fun t => t.pc) = some 0x202 := by decide
-- F25, F26
theorem test_jpV0_masks : (after 0xBFFF (regs [(0, 0xFF)])).map (fun t => t.pc) = some 0x0FE := by decide
theorem test_jpV0_is_V0 : (after 0xB456 (regs [(4, 0x99)])).map (fun t => t.pc) = some 0x456 := by decide
-- A1
theorem test_ldByte : (after 0x6A7B State.reset).map (fun t => (t.pc, t.readV 0xA)) = some (0x202, 0x7B) := by decide
-- A2, A3
theorem test_addByte_wraps : (after 0x7A0A (regs [(0xA, 0xFA)])).map (fun t => t.readV 0xA) = some 0x04 := by decide
theorem test_addByte_no_flag : (after 0x7001 (regs [(0, 0xFF), (0xF, 0x55)])).map (fun t => (t.readV 0, t.readV 0xF)) =
    some (0x00, 0x55) := by decide
-- A5
theorem test_ldReg : (after 0x8120 (regs [(2, 0x33)])).map (fun t => (t.readV 1, t.readV 2)) = some (0x33, 0x33) := by
  decide
-- A6, A7, A8
theorem test_orReg : (after 0x8121 (regs [(1, 0x0F), (2, 0xF0), (0xF, 0x77)])).map
    (fun t => (t.readV 1, t.readV 0xF)) = some (0xFF, 0x77) := by decide
theorem test_andReg : (after 0x8122 (regs [(1, 0x3C), (2, 0x0F), (0xF, 0x77)])).map
    (fun t => (t.readV 1, t.readV 0xF)) = some (0x0C, 0x77) := by decide
theorem test_xorReg : (after 0x8123 (regs [(1, 0xFF), (2, 0x0F), (0xF, 0x77)])).map
    (fun t => (t.readV 1, t.readV 0xF)) = some (0xF0, 0x77) := by decide
-- A12, A14
theorem test_addReg_carry : (after 0x8124 (regs [(1, 0xFF), (2, 0xFF)])).map (fun t => (t.readV 1, t.readV 0xF)) =
    some (0xFE, 0x01) := by decide
theorem test_addReg_to_VF : (after 0x8F14 (regs [(0xF, 0x10), (1, 0x02)])).map (fun t => t.readV 0xF) = some 0x00 := by
  decide
-- A17, A18
theorem test_sub_equal : (after 0x8125 (regs [(1, 0x30), (2, 0x30)])).map (fun t => (t.readV 1, t.readV 0xF)) =
    some (0x00, 0x01) := by decide
theorem test_sub_borrow : (after 0x8125 (regs [(1, 0x10), (2, 0x30)])).map (fun t => (t.readV 1, t.readV 0xF)) =
    some (0xE0, 0x00) := by decide
-- A21, A23
theorem test_shr : (after 0x8106 (regs [(1, 0x05)])).map (fun t => (t.readV 1, t.readV 0xF)) = some (0x02, 0x01) := by
  decide
theorem test_shr_ignores_y : (after 0x81A6 (regs [(1, 0x04), (0xA, 0xFF)])).map (fun t => (t.readV 1, t.readV 0xF)) =
    some (0x02, 0x00) := by decide
-- A25, A27
theorem test_subn : (after 0x8127 (regs [(1, 0x10), (2, 0x30)])).map (fun t => (t.readV 1, t.readV 0xF)) =
    some (0x20, 0x01) := by decide
theorem test_subn_borrow : (after 0x8127 (regs [(1, 0x30), (2, 0x10)])).map (fun t => (t.readV 1, t.readV 0xF)) =
    some (0xE0, 0x00) := by decide
-- A28, A30
theorem test_shl : (after 0x810E (regs [(1, 0x81)])).map (fun t => (t.readV 1, t.readV 0xF)) = some (0x02, 0x01) := by
  decide
theorem test_shl_to_VF : (after 0x8F0E (regs [(0xF, 0x80)])).map (fun t => t.readV 0xF) = some 0x01 := by decide
-- A34 for the step; A33 for the mask of a draw of 0xA5
theorem test_rnd_zero_mask : (after 0xC300 (regs [(3, 0x09)])).map (fun t => (t.pc, t.draws)) = some (0x202, 1) := by
  decide
theorem test_rnd_mask : maskDraw 0xA5 0x0F = 0x05 := by decide
-- M1
theorem test_ldI : (after 0xA123 State.reset).map (fun t => (t.pc, t.i)) = some (0x202, 0x123) := by decide
-- M3
theorem test_addIVx_wraps : (after 0xF21E { regs [(2, 0x02), (0xF, 0x33)] with i := 0xFFF }).map
    (fun t => (t.i, t.readV 0xF)) = some (0x001, 0x33) := by decide
-- M5, M6
theorem test_ldFVx : (after 0xF229 (regs [(2, 0x0A)])).map (fun t => t.i) = some 0x082 := by decide
theorem test_ldFVx_low_nibble : (after 0xF229 (regs [(2, 0x1F)])).map (fun t => t.i) = some 0x09B := by decide
-- M7, M10
theorem test_ldBVx : (after 0xF333 { regs [(3, 0x7B)] with i := 0x300 }).map (fun t => t.mem.readBytes 0x300 3) =
    some [0x01, 0x02, 0x03] := by decide
theorem test_ldBVx_wraps : (after 0xF333 { regs [(3, 0xFF)] with i := 0xFFE }).map
    (fun t => (t.mem.readAt 0xFFE, t.mem.readAt 0xFFF, t.mem.readAt 0x000)) = some (0x02, 0x05, 0x05) := by decide
-- M11, M13
theorem test_ldMemVx : (after 0xF255 { regs [(0, 1), (1, 2), (2, 3), (3, 4)] with i := 0x300 }).map
    (fun t => (t.mem.readBytes 0x300 4, t.i)) = some ([1, 2, 3, 0], 0x300) := by decide
theorem test_ldMemVx_wraps : (after 0xF155 { regs [(0, 0x11), (1, 0x22)] with i := 0xFFF }).map
    (fun t => (t.mem.readAt 0xFFF, t.mem.readAt 0x000)) = some (0x11, 0x22) := by decide
-- M15, M16 (the first and last register)
theorem test_ldVxMem : (after 0xF265 (bytes 0x300 [7, 8, 9, 0xA] { State.reset with i := 0x300 })).map
    (fun t => (t.readV 0, t.readV 1, t.readV 2, t.readV 3, t.i)) = some (7, 8, 9, 0, 0x300) := by decide
theorem test_ldVxMem_font : (after 0xFF65 { State.reset with i := 0x050 }).map (fun t => t.v.toList) =
    some [0xF0, 0x90, 0x90, 0x90, 0xF0, 0x20, 0x60, 0x20, 0x20, 0x70, 0xF0, 0x10, 0xF0, 0x80, 0xF0, 0xF0] := by decide
-- D1
theorem test_cls : (after 0x00E0 { State.reset with fb := (Framebuffer.blank.flip 0 0).flip 63 31 }).map
    (fun t => decide (t.fb = Vector.replicate 32 0)) = some true := by decide
-- D5 (the first and last lit column, and the column past it), D3
theorem test_drw_wraps : (after 0xD011 (bytes 0x300 [0xFF] { regs [(0, 0x3C)] with i := 0x300 })).map
    (fun t => (t.pixelAt 60 0, t.pixelAt 3 0, t.pixelAt 4 0, t.readV 0xF)) = some (true, true, false, 0) := by decide
theorem test_drw_collides : (after 0xD015 { State.reset with i := 0x050, fb := Framebuffer.blank.flip 0 0 }).map
    (fun t => (t.pixelAt 0 0, t.pixelAt 3 4, t.pixelAt 4 0, t.readV 0xF)) = some (false, true, false, 1) := by decide
-- K3, K2
theorem test_skp_low_nibble : (after 0xE19E { regs [(1, 0x15)] with keys := 0x0020 }).map (fun t => t.pc) = some 0x204 := by
  decide
theorem test_skp_released : (after 0xE19E (regs [(1, 0x05)])).map (fun t => t.pc) = some 0x202 := by decide
-- K4, K5
theorem test_sknp_pressed : (after 0xE1A1 { regs [(1, 0x05)] with keys := 0x0020 }).map (fun t => t.pc) = some 0x202 := by
  decide
theorem test_sknp_released : (after 0xE1A1 (regs [(1, 0x05)])).map (fun t => t.pc) = some 0x204 := by decide
-- K11, K12, K13
theorem test_ldVxDt : (after 0xF307 { State.reset with dt := 0x2A }).map (fun t => t.readV 3) = some 0x2A := by decide
theorem test_ldDtVx : (after 0xF315 (regs [(3, 0x3C)])).map (fun t => t.dt) = some 60 := by decide
theorem test_ldStVx : (after 0xF318 (regs [(3, 0x01)])).map (fun t => (t.st, t.soundActive)) = some (1, true) := by decide
-- K7
theorem test_ldVxK : (after 0xF30A { State.reset with pc := 0x206 }).map
    (fun t => (t.stepResult, t.pc, t.waitX, t.waitPrev)) = some (.awaitingKey, 0x208, 3, 0x0000) := by decide

/-! ## The wait, faults, and the other transactions -/

/-- A core that waits for V3 with the latch last seen as `prev`. -/
def waiting (prev now : Word) : State :=
  { bytes 0x206 [0xF3, 0x0A] State.reset with
    pc := 0x208, status := .awaitingKey, waitX := 3, waitPrev := prev, keys := now, loadOpen := false }

/-- A core halted on the word FF FF at 0x200. -/
def halted : State :=
  { bytes 0x200 [0xFF, 0xFF] State.reset with
    status := .halted { kind := .unknownInstruction, word := 0xFFFF, fpc := 0x200 }, loadOpen := false }

/-- The state and the response of a transaction that answers. -/
def answer (tr : Transaction) (s : State) : Option (State × Response) :=
  match transact tr s with
  | .next p => some p
  | .fault _ => none
  | .refused _ => none

-- K8, K9
theorem test_wait_takes_lowest_fresh_key : (answer .step (waiting 0x0000 0x0024)).map
    (fun p => (p.2, p.1.readV 3, p.1.pc, p.1.status)) = some (.ok, 0x02, 0x208, .running) := by decide
theorem test_wait_ignores_held_key : (answer .step (waiting 0x0004 0x0004)).map
    (fun p => (p.2, p.1.readV 3, p.1.status)) = some (.awaitingKey, 0x00, .awaitingKey) := by decide
-- L1-10 (X6): the fault undoes the advance of pc; X8
theorem test_unknown_halts : (answer .step (bytes 0x200 [0xFF, 0xFF] State.reset)).map (fun p => (p.2, p.1.pc)) =
    some (fatal .unknownInstruction 0xFFFF 0x200, 0x200) := by decide
theorem test_halted_repeats : (answer .step halted).map (fun p => (p.2, p.1.pc, p.1.status == halted.status)) =
    some (fatal .unknownInstruction 0xFFFF 0x200, 0x200, true) := by decide
-- X7
theorem test_fetch_wraps : (answer .step (bytes 0xFFF [0x60, 0x01] { State.reset with pc := 0xFFF })).map
    (fun p => (p.2, p.1.readV 0, p.1.pc)) = some (.ok, 0x01, 0x001) := by decide
-- K14, K16
theorem test_tick : (answer .tick { State.reset with dt := 2, st := 1 }).map (fun p => (p.1.dt, p.1.st)) = some (1, 0) := by
  decide
theorem test_tick_while_halted : (answer .tick { halted with dt := 3 }).map (fun p => (p.1.dt, p.1.st)) = some (2, 0) := by
  decide
-- R1 and R2 at the size limit, R3 and R4
theorem test_load_oversized : State.reset.acceptsLoad (List.replicate 3585 0x01) = false := by
  unfold State.acceptsLoad
  rw [List.length_replicate]
  decide
theorem test_load_largest : State.reset.acceptsLoad (List.replicate 3584 0x01) = true := by
  unfold State.acceptsLoad
  rw [List.length_replicate]
  decide
theorem test_load_once : ∃ t, transactAll [.load [0x60, 0x01], .load [0x00], .step, .load [0x00]] State.reset =
    .next (t, [.ok, .loadError, .ok, .loadError]) := ⟨_, rfl⟩
-- X9
theorem test_reset_from_halted : ∃ t, transact .reset halted = .next (t, .nothing) ∧ t.pc = 0x200 ∧
    t.status = .running ∧ t.loadOpen = true ∧ t.mem.read 0x050 = 0xF0 ∧ t.mem.read 0x200 = 0x00 := by
  refine ⟨halted.resetCore, rfl, rfl, rfl, rfl, ?_, ?_⟩ <;>
    · rw [State.resetCore_mem, Memory.read_resetImage _ _ (by decide)]
      decide

/-! ## Witnesses: a state and operands that meet the hypotheses of each obligation, one for each clause -/

/-- A legal state at the far end of every range: pc and I at 0xFFF, the stack full. -/
def edge : State := { calls 16 with pc := 0xFFF, i := 0xFFF, mem := [(0x000, 0x01), (0xFFF, 0x60)] }

theorem edge_legal : edge.Legal := ⟨by decide, by decide, by decide, by decide, by decide⟩

theorem witness_RetPopsOrUnderflows : (calls 0).sp = 0 ∧ (calls 1).sp.toNat = (0 : Fin 16).val + 1 ∧
    (calls 16).sp.toNat = (15 : Fin 16).val + 1 := by decide
theorem witness_JpWritesPc : (0x000 : Word).toNat < 0x1000 ∧ (0xFFF : Word).toNat < 0x1000 := by decide
theorem witness_JpV0AddsV0 : (0xFFF : Word).toNat < 0x1000 ∧ (regs [(0, 0xFF)]).readV 0 = 0xFF := by decide
theorem witness_CallPushesOrOverflows : (0xFFF : Word).toNat < 0x1000 ∧ (calls 16).sp = 16 ∧
    (calls 0).sp.toNat = (0 : Fin 16).val ∧ (calls 15).sp.toNat = (15 : Fin 16).val := by decide
theorem witness_SkipOnRegisters : (0x1 : Nibble) ≠ 0 ∧ (0xF : Nibble) ≠ 0 := by decide
theorem witness_CallThenRetComesBack : (calls 0).sp.toNat < 16 ∧ (calls 15).sp.toNat < 16 := by decide
theorem witness_SpAboveSixteenStops : 16 < (calls 17).sp.toNat ∧ 16 < (calls 255).sp.toNat := by decide
theorem witness_IndexWriters : (0x000 : Word).toNat < 0x1000 ∧ (0xFFF : Word).toNat < 0x1000 := by decide
theorem witness_BcdStoresThreeDigits : State.reset.mem.wf = true ∧ edge.mem.wf = true ∧ edge.i = 0xFFF := by decide
theorem witness_StoreRegisters : State.reset.mem.wf = true ∧ edge.mem.wf = true ∧ edge.i = 0xFFF := by decide
theorem witness_StoreSeenByNextFetch : 1 ≤ (0xF : Reg).toNat ∧ { edge with i := 0x001 }.mem.wf = true ∧
    { edge with i := 0x001 }.i = { edge with i := 0x001 }.nextPc := by decide

/-- DRW V0, V1, 1 over a blank and over a lit framebuffer. -/
def sprite (lit : Bool) : State :=
  bytes 0x300 [0x80] { State.reset with i := 0x300, fb := Vector.replicate 32 (if lit then BitVec.allOnes 64 else 0) }

theorem witness_DrwXorsAndCollides_lit : (sprite true).spriteCovers 0 1 1 0 0 = true ∧ (sprite true).pixelAt 0 0 = true := by
  decide
theorem witness_DrwXorsAndCollides_blank :
    ∀ px py : Nat, (sprite false).spriteCovers 0 1 1 px py = true → (sprite false).pixelAt px py = false := by
  intro px py _
  have h : (sprite false).fb = Framebuffer.blank := by decide
  unfold State.pixelAt
  rw [h]
  exact Framebuffer.pixelAt_blank px py
theorem witness_DrawTwiceRestores_blank : ∃ t, exec (.drw 0 1 1) (sprite false) = .next t ∧
    t.readV 0 = (sprite false).readV 0 ∧ t.readV 1 = (sprite false).readV 1 ∧
    (sprite false).spriteCovers 0 1 1 0 0 = true ∧ (sprite false).pixelAt 0 0 = false :=
  ⟨_, rfl, by decide, by decide, by decide, by decide⟩
/-- x = F: VF is 0 before the draw and 0 after it. -/
theorem witness_DrawTwiceRestores_VF : ∃ t, exec (.drw 0xF 1 1) (sprite false) = .next t ∧
    t.readV 0xF = (sprite false).readV 0xF ∧ t.readV 1 = (sprite false).readV 1 := ⟨_, rfl, by decide, by decide⟩
theorem witness_DrawTwiceRestores_lit : ∃ t, exec (.drw 0 1 1) (sprite true) = .next t ∧
    t.readV 0 = (sprite true).readV 0 ∧ t.readV 1 = (sprite true).readV 1 ∧
    ∀ px py : Nat, (sprite true).spriteCovers 0 1 1 px py = true → (sprite true).pixelAt px py = true := by
  refine ⟨_, rfl, by decide, by decide, ?_⟩
  intro px py _
  have h : (sprite true).fb = Vector.replicate 32 (BitVec.allOnes 64) := by decide
  unfold State.pixelAt Framebuffer.pixelAt
  rw [h, Vector.getElem_replicate, BitVec.getLsbD_allOnes]
  exact decide_eq_true (Nat.mod_lt _ (by decide))

theorem witness_AwaitingKeyStep_none : (waiting 0x8001 0x8001).status = .awaitingKey ∧
    (waiting 0x8001 0x8001).keys &&& ~~~(waiting 0x8001 0x8001).waitPrev = 0 := by decide
theorem witness_AwaitingKeyStep_lowest : (waiting 0x0000 0xFFFF).status = .awaitingKey ∧
    ((waiting 0x0000 0xFFFF).keys &&& ~~~(waiting 0x0000 0xFFFF).waitPrev).getLsbD (0x0 : Nibble).toNat = true ∧
    ∀ j < (0x0 : Nibble).toNat,
      ((waiting 0x0000 0xFFFF).keys &&& ~~~(waiting 0x0000 0xFFFF).waitPrev).getLsbD j = false := by decide
theorem witness_AwaitingKeyStep_highest : (waiting 0x7FFF 0xFFFF).status = .awaitingKey ∧
    ((waiting 0x7FFF 0xFFFF).keys &&& ~~~(waiting 0x7FFF 0xFFFF).waitPrev).getLsbD (0xF : Nibble).toNat = true ∧
    ∀ j < (0xF : Nibble).toNat,
      ((waiting 0x7FFF 0xFFFF).keys &&& ~~~(waiting 0x7FFF 0xFFFF).waitPrev).getLsbD j = false := by decide

/-- The reset state with the word at pc. -/
def atWord (w : Nat) : State := State.reset.withFetchWord 16 w

theorem witness_StepRunsDecoded : (atWord 0x6A7B).status = .running ∧
    decode (atWord 0x6A7B).fetchWord = some (.ldByte 0xA 0x7B) := by decide
theorem witness_FetchWraps : edge.pc = 0xFFF ∧ edge.status = .running ∧
    decode edge.fetchWord = some (.ldByte 0x0 0x01) ∧
    (bytes 0xFFE [0x60, 0x01] { edge with pc := 0xFFE }).pc = 0xFFE ∧
    (bytes 0xFFE [0x60, 0x01] { edge with pc := 0xFFE }).status = .running ∧
    decode (bytes 0xFFE [0x60, 0x01] { edge with pc := 0xFFE }).fetchWord = some (.ldByte 0x0 0x01) := by decide
theorem witness_UnknownWordHalts : (atWord 0xFFFF).status = .running ∧ decode (atWord 0xFFFF).fetchWord = none := by
  decide
/-- One faulting step of each kind, for FaultUndoesTheStep and ExactlyThreeFaults. -/
theorem witness_FaultUndoesTheStep_unknown : (atWord 0xFFFF).status = .running ∧ ∃ t, step (atWord 0xFFFF) = .next t ∧
    t.status = .halted { kind := .unknownInstruction, word := 0xFFFF, fpc := 0x200 } := ⟨rfl, _, rfl, rfl⟩
theorem witness_FaultUndoesTheStep_overflow : ∃ t, step ((calls 16).withFetchWord 16 0x2400) = .next t ∧
    t.status = .halted { kind := .stackOverflow, word := 0x2400, fpc := 0x200 } := ⟨_, rfl, rfl⟩
theorem witness_FaultUndoesTheStep_underflow : ∃ t, step (atWord 0x00EE) = .next t ∧
    t.status = .halted { kind := .stackUnderflow, word := 0x00EE, fpc := 0x200 } := ⟨_, rfl, rfl⟩
theorem witness_ExactlyThreeFaults_conditions :
    (atWord 0xFFFF).status = .running ∧ decode (atWord 0xFFFF).fetchWord = none ∧
    ((calls 16).withFetchWord 16 0x2400).status = .running ∧ ((calls 16).withFetchWord 16 0x2400).sp = 16 ∧
    decode ((calls 16).withFetchWord 16 0x2400).fetchWord = some (.call 0x400) ∧
    (atWord 0x00EE).status = .running ∧ (atWord 0x00EE).sp = 0 ∧ decode (atWord 0x00EE).fetchWord = some .ret := by
  decide
theorem witness_ExactlyThreeFaults : (atWord 0x00EE).status = .running ∧ ∃ t, step (atWord 0x00EE) = .next t ∧
    t.status = .halted { kind := .stackUnderflow, word := 0x00EE, fpc := 0x200 } := ⟨rfl, _, rfl, rfl⟩
theorem witness_HaltedStepReturnsRecord :
    halted.status = .halted { kind := .unknownInstruction, word := 0xFFFF, fpc := 0x200 } ∧
    Transaction.setKeys 0xFFFF ≠ .reset := ⟨rfl, by decide⟩
theorem witness_StepResultsByStatus_running : (atWord 0xF30A).status = .running ∧
    ∃ t, transact .step (atWord 0xF30A) = .next (t, .awaitingKey) := ⟨rfl, _, rfl⟩
theorem witness_StepResultsByStatus_waiting : (waiting 0x0000 0x0004).status = .awaitingKey ∧
    ∃ t, transact .step (waiting 0x0000 0x0004) = .next (t, .ok) := ⟨rfl, _, rfl⟩
theorem witness_StepResultsByStatus_halted :
    halted.status = .halted { kind := .unknownInstruction, word := 0xFFFF, fpc := 0x200 } ∧
    ∃ t r, transact .step halted = .next (t, r) := ⟨rfl, _, _, rfl⟩
theorem witness_OnlyResetLeavesHalted :
    halted.status = .halted { kind := .unknownInstruction, word := 0xFFFF, fpc := 0x200 } ∧ halted.loadOpen = false ∧
    ∀ tr ∈ [Transaction.load [0x00], .step, .tick, .setKeys 0xFFFF, .stepAndTick],
      tr ≠ .reset ∧ (answer tr halted).isSome = true := by decide
theorem witness_EveryTransactionAnswers : (calls 0).sp.toNat ≤ 16 ∧ (calls 16).sp.toNat ≤ 16 := by decide
theorem witness_OnlyTheListedWriters : (atWord 0x1ABC).status = .running ∧
    decode (atWord 0x1ABC).fetchWord = some (.jp 0xABC) ∧ (∃ t, step (atWord 0x1ABC) = .next t) ∧
    (∀ nnn x, Instr.jp 0xABC ≠ .ldI nnn ∧ Instr.jp 0xABC ≠ .addIVx x ∧ Instr.jp 0xABC ≠ .ldFVx x) ∧
    (∀ nnn, Instr.jp 0xABC ≠ .call nnn ∧ Instr.jp 0xABC ≠ .ret) ∧ (∀ x, Instr.jp 0xABC ≠ .ldDtVx x) ∧
    (∀ x, Instr.jp 0xABC ≠ .ldStVx x) ∧ (∀ x y n, Instr.jp 0xABC ≠ .cls ∧ Instr.jp 0xABC ≠ .drw x y n) ∧
    (∀ x, Instr.jp 0xABC ≠ .ldBVx x ∧ Instr.jp 0xABC ≠ .ldMemVx x) :=
  ⟨rfl, by decide, ⟨_, rfl⟩, by simp, by simp, by simp, by simp, by simp, by simp⟩
theorem witness_VfSideEffects : (∃ t, exec (.ldByte 0xE 0xFF) State.reset = .next t) ∧
    (∀ x y n, Instr.ldByte 0xE 0xFF ≠ .addReg x y ∧ Instr.ldByte 0xE 0xFF ≠ .sub x y ∧
      Instr.ldByte 0xE 0xFF ≠ .shr x y ∧ Instr.ldByte 0xE 0xFF ≠ .subn x y ∧ Instr.ldByte 0xE 0xFF ≠ .shl x y ∧
      Instr.ldByte 0xE 0xFF ≠ .drw x y n) ∧
    (∀ y nn, Instr.ldByte 0xE 0xFF ≠ .ldByte 0xF nn ∧ Instr.ldByte 0xE 0xFF ≠ .addByte 0xF nn ∧
      Instr.ldByte 0xE 0xFF ≠ .ldReg 0xF y ∧ Instr.ldByte 0xE 0xFF ≠ .orReg 0xF y ∧
      Instr.ldByte 0xE 0xFF ≠ .andReg 0xF y ∧ Instr.ldByte 0xE 0xFF ≠ .xorReg 0xF y ∧
      Instr.ldByte 0xE 0xFF ≠ .rnd 0xF nn ∧ Instr.ldByte 0xE 0xFF ≠ .ldVxDt 0xF ∧
      Instr.ldByte 0xE 0xFF ≠ .ldVxMem 0xF) := ⟨⟨_, rfl⟩, by simp, by simp⟩
theorem witness_KeysUnseenElsewhere : (atWord 0x8124).status = .running ∧
    decode (atWord 0x8124).fetchWord = some (.addReg 1 2) ∧ (∃ t, step (atWord 0x8124) = .next t) ∧
    ∀ x, Instr.addReg 1 2 ≠ .skp x ∧ Instr.addReg 1 2 ≠ .sknp x ∧ Instr.addReg 1 2 ≠ .ldVxK x :=
  ⟨rfl, by decide, ⟨_, rfl⟩, by simp⟩
theorem witness_LoadWholeOrRefused : State.reset.mem.wf = true ∧ State.reset.loadOpen = true ∧
    (List.replicate 3584 (0x01 : Byte)).length ≤ 3584 ∧ ([] : List Byte).length ≤ 3584 ∧
    3584 < (List.replicate 3585 (0x01 : Byte)).length ∧ halted.mem.wf = true ∧ halted.loadOpen = false := by
  rw [List.length_replicate, List.length_replicate]
  decide
theorem witness_LoadWholeOrRefused_step : (∃ t, step State.reset = .next t) ∧
    ∃ t, transact .reset State.reset = .next (t, .nothing) := ⟨⟨_, rfl⟩, State.reset.resetCore, rfl⟩
theorem witness_LoadingStaysClosed : halted.loadOpen = false ∧
    Transaction.reset ∉ [Transaction.step, .load [0x00], .stepAndTick] ∧
    ∃ t rs, transactAll [.step, .load [0x00], .stepAndTick] halted = .next (t, rs) := ⟨rfl, by decide, _, _, rfl⟩
theorem witness_ResetStateIsAReset : State.reset.cfg = Config.default ∧ State.reset.keys = 0 ∧ State.reset.draws = 0 :=
  ⟨rfl, rfl, rfl⟩
theorem witness_ReadPorts : halted.status = .halted { kind := .unknownInstruction, word := 0xFFFF, fpc := 0x200 } ∧
    State.reset.notHalted := ⟨rfl, by intro r h; simp [State.reset] at h⟩
theorem witness_StepBeforeTick : (calls 0).sp.toNat ≤ 16 ∧ (calls 16).sp.toNat ≤ 16 := by decide
theorem witness_DecodeOfEncode : (Instr.jp 0xFFF).wf = true ∧ (Instr.shr 1 0xA).wf = true := by decide
theorem witness_EncodeOfDecode : decode 0x81A6 = some (.shr 1 0xA) := by decide
theorem witness_NoTwoRowsMatch : ∃ r, opcodeRows[4]? = some r ∧ r ∈ opcodeRows ∧ r.hits 0x3000 = true :=
  ⟨rowXNN "SE_BYTE" 0x3000 .seByte, rfl, List.mem_of_getElem? (i := 4) rfl, by decide⟩
theorem witness_CanonicalMemoryIsUnique : edge.mem.wf = true ∧ (edge.mem.writeAt 0xFFF 0x60).wf = true ∧
    ∀ a < 4096, edge.mem.read a = (edge.mem.writeAt 0xFFF 0x60).read a :=
  ⟨by decide, by decide, fun _ _ => rfl⟩
theorem witness_StepKeepsLegal : edge.Legal ∧ ∃ t, step edge = .next t := ⟨edge_legal, _, rfl⟩
theorem witness_ScheduleKeepsLegal : edge.Legal := edge_legal
theorem waiting_ok : (waiting 0x0004 0x0004).Legal ∧ (waiting 0x0004 0x0004).StatusOk :=
  ⟨⟨by decide, by decide, by decide, by decide, by decide⟩, rfl, 0x206, by decide, by decide⟩
theorem halted_ok : halted.Legal ∧ halted.StatusOk :=
  ⟨⟨by decide, by decide, by decide, by decide, by decide⟩, rfl, by decide, by decide, by decide⟩
theorem witness_StepKeepsStatusOk_waiting : (waiting 0x0004 0x0004).Legal ∧ (waiting 0x0004 0x0004).StatusOk ∧
    ∃ t, step (waiting 0x0004 0x0004) = .next t := ⟨waiting_ok.1, waiting_ok.2, _, rfl⟩
theorem witness_StepKeepsStatusOk_halted : halted.Legal ∧ halted.StatusOk ∧ ∃ t, step halted = .next t :=
  ⟨halted_ok.1, halted_ok.2, _, rfl⟩
theorem witness_TransactionKeepsStatusOk : halted.Legal ∧ halted.StatusOk ∧
    ∃ t, transact .stepAndTick halted = .next (t, fatal .unknownInstruction 0xFFFF 0x200) :=
  ⟨halted_ok.1, halted_ok.2, _, rfl⟩

end Sys2Proof.Tests
end

/-! # Frames: what each operation and each instruction may change -/

namespace Sys2Proof.Machine

/-! ## Frames compose -/

theorem agreeOn_refl (s : State) (p : Part) : agreeOn s s p := by
  cases p <;> simp [agreeOn]

theorem agreeOn_trans {s t u : State} {p : Part} (h : agreeOn s t p) (h' : agreeOn t u p) : agreeOn s u p := by
  cases p <;> simp_all [agreeOn]

theorem onlyChanges_refl (parts : List Part) (s : State) : onlyChanges parts s s :=
  fun p _ => agreeOn_refl s p

/-- The parts of the later change stand first, as the obligations list them (`[.v, .pc]`). -/
theorem onlyChanges.trans {ps qs : List Part} {s t u : State} (h : onlyChanges ps s t) (h' : onlyChanges qs t u) :
    onlyChanges (qs ++ ps) s u := by
  intro p hp
  simp only [List.mem_append, not_or] at hp
  exact agreeOn_trans (h p hp.2) (h' p hp.1)

theorem onlyChanges.mono {ps qs : List Part} {s t : State} (h : onlyChanges ps s t) (hsub : ∀ p ∈ ps, p ∈ qs) :
    onlyChanges qs s t :=
  fun p hp => h p fun hmem => hp (hsub p hmem)

/-! ## The operations -/

section
variable (s : State)

theorem setPc_frame (w : Word) : onlyChanges [.pc] s (s.setPc w) := by
  intro p hp; cases p <;> simp_all [agreeOn]

theorem advance_frame : onlyChanges [.pc] s s.advance := setPc_frame s _

theorem skipIf_frame (c : Bool) : onlyChanges [.pc] s (s.skipIf c) := by
  cases c
  · exact onlyChanges_refl _ s
  · exact setPc_frame s _

theorem advance_skipIf_frame (c : Bool) : onlyChanges [.pc] s (s.advance.skipIf c) :=
  ((advance_frame s).trans (skipIf_frame _ c)).mono (by decide)

theorem writeV_frame (x : Reg) (b : Byte) : onlyChanges [.v] s (s.writeV x b) := by
  intro p hp; cases p <;> simp_all [agreeOn]

theorem writeVThenFlag_frame (x : Reg) (b : Byte) (c : Bool) : onlyChanges [.v] s (s.writeVThenFlag x b c) :=
  ((writeV_frame s x b).trans (writeV_frame _ regVF _)).mono (by decide)

theorem setI_frame (w : Word) : onlyChanges [.i] s (s.setI w) := by
  intro p hp; cases p <;> simp_all [agreeOn]

theorem setDt_frame (b : Byte) : onlyChanges [.dt] s (s.setDt b) := by
  intro p hp; cases p <;> simp_all [agreeOn]

theorem setSt_frame (b : Byte) : onlyChanges [.st] s (s.setSt b) := by
  intro p hp; cases p <;> simp_all [agreeOn]

theorem setFb_frame (fb : Framebuffer) : onlyChanges [.fb] s (s.setFb fb) := by
  intro p hp; cases p <;> simp_all [agreeOn]

theorem storeBytes_frame (a : Nat) (bs : List Byte) : onlyChanges [.mem] s (s.storeBytes a bs) := by
  intro p hp; cases p <;> simp_all [agreeOn]

theorem push_frame : onlyChanges [.stack, .sp] s s.push := by
  intro p hp; cases p <;> simp_all [agreeOn]

theorem popTo_frame (w : Word) : onlyChanges [.sp, .pc] s (s.popTo w) := by
  intro p hp; cases p <;> simp_all [agreeOn]

theorem countDraw_frame : onlyChanges [.draws] s s.countDraw := by
  intro p hp; cases p <;> simp_all [agreeOn]

theorem enterWait_frame (x : Reg) : onlyChanges [.waitX, .waitPrev, .status] s (s.enterWait x) := by
  intro p hp; cases p <;> simp_all [agreeOn]

theorem takeFault_frame (k : FaultKind) (w : Word) : onlyChanges [.status] s (s.takeFault k w) := by
  intro p hp; cases p <;> simp_all [agreeOn]

theorem closeLoad_frame : onlyChanges [.loadOpen] s s.closeLoad := by
  intro p hp; cases p <;> simp_all [agreeOn]

theorem setRegs_frame (v : Vector Byte 16) : onlyChanges [.v] s { s with v := v } := by
  intro p hp; cases p <;> simp_all [agreeOn, State.pixelAt]

end

/-! ## The instructions -/

/-- The rule for what an instruction's next state satisfies: it is enough to show it of the state that the
instruction's arm of `exec` answers. -/
theorem of_next {P : State → Prop} {u t : State} (hu : P u) (h : (.next u : Result) = .next t) : P t :=
  Host.Outcome.next.inj h ▸ hu

/-- A CALL that answers has overflowed or pushed. -/
theorem exec_call_next {nnn : Word} {s t : State} (h : exec (.call nnn) s = .next t) :
    (s.sp = 16 ∧ t = s.takeFault .stackOverflow (encode (.call nnn))) ∨
    (s.sp.toNat < 16 ∧ t = s.advance.push.setPc nnn) := by
  obtain ⟨hsp, e⟩ | ⟨hsp, e⟩ | ⟨-, e⟩ := execCall_cases nnn s
  · exact .inl ⟨hsp, (Host.Outcome.next.inj (e.symm.trans h)).symm⟩
  · exact .inr ⟨hsp, (Host.Outcome.next.inj (e.symm.trans h)).symm⟩
  · cases e.symm.trans h

/-- A RET that answers has underflowed or popped. -/
theorem exec_ret_next {s t : State} (h : exec .ret s = .next t) :
    (s.sp = 0 ∧ t = s.takeFault .stackUnderflow (encode .ret)) ∨
    (s.sp ≠ 0 ∧ ∃ hlt : s.sp.toNat - 1 < 16, t = s.advance.popTo s.stack[s.sp.toNat - 1]) := by
  obtain ⟨hsp, e⟩ | ⟨hsp, hlt, e⟩ | ⟨-, e⟩ := execRet_cases s
  · exact .inl ⟨hsp, (Host.Outcome.next.inj (e.symm.trans h)).symm⟩
  · exact .inr ⟨hsp, hlt, (Host.Outcome.next.inj (e.symm.trans h)).symm⟩
  · cases e.symm.trans h

/-- With sp in 1..16 RET pops. -/
theorem execRet_of_pop {s : State} (hsp : s.sp ≠ 0) (hlt : s.sp.toNat - 1 < 16) :
    execRet s = .next (s.advance.popTo s.stack[s.sp.toNat - 1]) := by
  obtain ⟨h0, -⟩ | ⟨-, _, e⟩ | ⟨h16, -⟩ := execRet_cases s
  · exact absurd h0 hsp
  · exact e
  · omega

/-- The pieces of state that an instruction may write: the writers' lists of 10_state.md R20-R36, turned
round. `exec_frame` ties the table to the meanings. CALL and RET may write status, by their faults. -/
def writtenParts : Instr → List Part
  | .cls => [.fb, .pc]
  | .ret => [.sp, .pc, .status]
  | .jp _ | .jpV0 _ => [.pc]
  | .call _ => [.stack, .sp, .pc, .status]
  | .seByte _ _ | .sneByte _ _ | .seReg _ _ | .sneReg _ _ | .skp _ | .sknp _ => [.pc]
  | .ldByte _ _ | .addByte _ _ | .ldReg _ _ | .orReg _ _ | .andReg _ _ | .xorReg _ _ => [.v, .pc]
  | .addReg _ _ | .sub _ _ | .shr _ _ | .subn _ _ | .shl _ _ => [.v, .pc]
  | .rnd _ _ => [.v, .draws, .pc]
  | .drw _ _ _ => [.v, .fb, .pc]
  | .ldVxDt _ | .ldVxMem _ => [.v, .pc]
  | .ldVxK _ => [.waitX, .waitPrev, .status, .pc]
  | .ldDtVx _ => [.dt, .pc]
  | .ldStVx _ => [.st, .pc]
  | .ldI _ | .addIVx _ | .ldFVx _ => [.i, .pc]
  | .ldBVx _ | .ldMemVx _ => [.mem, .pc]

/-- An instruction changes nothing but the pieces it is listed to write. -/
theorem exec_frame {i : Instr} {s t : State} (h : exec i s = .next t) : onlyChanges (writtenParts i) s t := by
  have adv := advance_frame s
  cases i with
  | cls => exact of_next (adv.trans (setFb_frame _ _)) h
  | ret =>
    obtain ⟨-, rfl⟩ | ⟨-, -, rfl⟩ := exec_ret_next h
    · exact (takeFault_frame s _ _).mono (by simp [writtenParts])
    · exact (adv.trans (popTo_frame _ _)).mono (by simp [writtenParts])
  | jp | jpV0 => exact of_next ((adv.trans (setPc_frame _ _)).mono (by simp [writtenParts])) h
  | call =>
    obtain ⟨-, rfl⟩ | ⟨-, rfl⟩ := exec_call_next h
    · exact (takeFault_frame s _ _).mono (by simp [writtenParts])
    · exact ((adv.trans (push_frame _)).trans (setPc_frame _ _)).mono (by simp [writtenParts])
  | seByte | sneByte | seReg | sneReg | skp | sknp => exact of_next (advance_skipIf_frame s _) h
  | ldByte | addByte | ldReg | orReg | andReg | xorReg | ldVxDt => exact of_next (adv.trans (writeV_frame _ _ _)) h
  | addReg | sub | shr | subn | shl => exact of_next (adv.trans (writeVThenFlag_frame _ _ _ _)) h
  | rnd => exact of_next ((adv.trans (countDraw_frame _)).trans (writeV_frame _ _ _)) h
  | drw => exact of_next ((adv.trans (setFb_frame _ _)).trans (writeV_frame _ _ _)) h
  | ldVxMem => exact of_next (adv.trans (setRegs_frame _ _)) h
  | ldVxK => exact of_next (adv.trans (enterWait_frame _ _)) h
  | ldDtVx => exact of_next (adv.trans (setDt_frame _ _)) h
  | ldStVx => exact of_next (adv.trans (setSt_frame _ _)) h
  | ldI | addIVx | ldFVx => exact of_next (adv.trans (setI_frame _ _)) h
  | ldBVx | ldMemVx => exact of_next (adv.trans (storeBytes_frame _ _ _)) h

end Sys2Proof.Machine

/-! # Legal states: the invariant of R23, R24, R26 and R27 at every operation, step and transaction -/

namespace Sys2Proof.Machine

/-! ## The operations -/

namespace State.Legal

section
variable {s : State} (hs : s.Legal)
include hs

theorem setPc (w : Word) : (s.setPc w).Legal :=
  ⟨hs.memory, low12_lt w, hs.i12, hs.stack12, hs.spLe⟩

theorem advance : s.advance.Legal := hs.setPc _

theorem skipIf (c : Bool) : (s.skipIf c).Legal := by
  cases c
  · exact hs
  · exact hs.setPc _

theorem setI (w : Word) : (s.setI w).Legal :=
  ⟨hs.memory, hs.pc12, low12_lt w, hs.stack12, hs.spLe⟩

theorem writeV (x : Reg) (b : Byte) : (s.writeV x b).Legal :=
  ⟨hs.memory, hs.pc12, hs.i12, hs.stack12, hs.spLe⟩

theorem writeVThenFlag (x : Reg) (b : Byte) (c : Bool) : (s.writeVThenFlag x b c).Legal :=
  (hs.writeV x b).writeV regVF _

theorem setRegs (v : Vector Byte 16) : { s with v := v }.Legal :=
  ⟨hs.memory, hs.pc12, hs.i12, hs.stack12, hs.spLe⟩

theorem setDt (b : Byte) : (s.setDt b).Legal :=
  ⟨hs.memory, hs.pc12, hs.i12, hs.stack12, hs.spLe⟩

theorem setSt (b : Byte) : (s.setSt b).Legal :=
  ⟨hs.memory, hs.pc12, hs.i12, hs.stack12, hs.spLe⟩

theorem setFb (fb : Framebuffer) : (s.setFb fb).Legal :=
  ⟨hs.memory, hs.pc12, hs.i12, hs.stack12, hs.spLe⟩

theorem countDraw : s.countDraw.Legal :=
  ⟨hs.memory, hs.pc12, hs.i12, hs.stack12, hs.spLe⟩

theorem enterWait (x : Reg) : (s.enterWait x).Legal :=
  ⟨hs.memory, hs.pc12, hs.i12, hs.stack12, hs.spLe⟩

theorem takeFault (k : FaultKind) (w : Word) : (s.takeFault k w).Legal :=
  ⟨hs.memory, hs.pc12, hs.i12, hs.stack12, hs.spLe⟩

theorem closeLoad : s.closeLoad.Legal :=
  ⟨hs.memory, hs.pc12, hs.i12, hs.stack12, hs.spLe⟩

theorem tick : s.tick.Legal :=
  ⟨hs.memory, hs.pc12, hs.i12, hs.stack12, hs.spLe⟩

theorem setKeys (k : Word) : (s.setKeys k).Legal :=
  ⟨hs.memory, hs.pc12, hs.i12, hs.stack12, hs.spLe⟩

theorem storeBytes (a : Nat) (bs : List Byte) : (s.storeBytes a bs).Legal :=
  ⟨Memory.writeBytes_wf a bs hs.memory, hs.pc12, hs.i12, hs.stack12, hs.spLe⟩

/-- The pushed pc is a 12-bit value, and sp stays within the depth. -/
theorem push (hsp : s.sp.toNat < 16) : s.push.Legal := by
  refine ⟨hs.memory, hs.pc12, hs.i12, fun k => ?_, ?_⟩
  · have hk := hs.stack12 k
    simp only [State.push_stack, Fin.getElem_fin, Vector.getElem_setIfInBounds] at hk ⊢
    split
    · exact hs.pc12
    · exact hk
  · rw [State.push_sp, sp_add_one_toNat hsp]
    omega

theorem popTo (hsp : s.sp ≠ 0) (w : Word) : (s.popTo w).Legal := by
  refine ⟨hs.memory, low12_lt w, hs.i12, hs.stack12, ?_⟩
  have := hs.spLe
  rw [State.popTo_sp, sp_sub_one_toNat hsp]
  omega

theorem waitStep : s.waitStep.Legal := by
  obtain ⟨-, e⟩ | ⟨d, -, e⟩ := s.waitStep_cases
  · rw [e]; exact ⟨hs.memory, hs.pc12, hs.i12, hs.stack12, hs.spLe⟩
  · rw [e]; exact ⟨hs.memory, hs.pc12, hs.i12, hs.stack12, hs.spLe⟩

theorem load (rom : List Byte) : (s.load rom).1.Legal := by
  obtain ⟨-, -, e⟩ | ⟨-, e⟩ := s.load_cases rom
  · rw [e]; exact ⟨Memory.writeBytes_wf _ rom hs.memory, hs.pc12, hs.i12, hs.stack12, hs.spLe⟩
  · rw [e]; exact hs

end

end State.Legal

theorem State.reset_legal : State.reset.Legal :=
  ⟨rfl, by decide, by decide, by decide, by decide⟩

/-- Reset leaves a legal state, from any state and under any parameters. -/
theorem State.resetCore_legal (s : State) : s.resetCore.Legal where
  memory := by rw [State.resetCore_mem]; exact Memory.resetImage_wf s.cfg
  pc12 := by rw [State.resetCore_pc]; decide
  i12 := by rw [State.resetCore_i]; decide
  stack12 k := by simp
  spLe := by rw [State.resetCore_sp]; decide

/-! ## Instructions and steps -/

theorem exec_keeps_legal {i : Instr} {s t : State} (hs : s.Legal) (h : exec i s = .next t) : t.Legal := by
  have adv := hs.advance
  cases i with
  | cls => exact of_next (adv.setFb _) h
  | ret =>
    obtain ⟨-, rfl⟩ | ⟨hsp, -, rfl⟩ := exec_ret_next h
    · exact hs.takeFault _ _
    · exact adv.popTo hsp _
  | jp | jpV0 => exact of_next (adv.setPc _) h
  | call =>
    obtain ⟨-, rfl⟩ | ⟨hsp, rfl⟩ := exec_call_next h
    · exact hs.takeFault _ _
    · exact (adv.push hsp).setPc _
  | seByte | sneByte | seReg | sneReg | skp | sknp => exact of_next (adv.skipIf _) h
  | ldByte | addByte | ldReg | orReg | andReg | xorReg | ldVxDt => exact of_next (adv.writeV _ _) h
  | addReg | sub | shr | subn | shl => exact of_next (adv.writeVThenFlag _ _ _) h
  | rnd => exact of_next (adv.countDraw.writeV _ _) h
  | drw => exact of_next ((adv.setFb _).writeV _ _) h
  | ldVxMem => exact of_next (adv.setRegs _) h
  | ldVxK => exact of_next (adv.enterWait _) h
  | ldDtVx => exact of_next (adv.setDt _) h
  | ldStVx => exact of_next (adv.setSt _) h
  | ldI | addIVx | ldFVx => exact of_next (adv.setI _) h
  | ldBVx | ldMemVx => exact of_next (adv.storeBytes _ _) h

theorem step_keeps_legal {s t : State} (hs : s.Legal) (h : step s = .next t) : t.Legal := by
  obtain ⟨-, -, rfl⟩ | ⟨-, rfl⟩ | ⟨-, -, rfl⟩ | ⟨-, i, -, hi⟩ := step_cases h
  · exact hs.closeLoad
  · exact hs.closeLoad.waitStep
  · exact hs.closeLoad.takeFault _ _
  · exact exec_keeps_legal hs.closeLoad hi

/-- Settles O54: every arm of `exec` is a chain of operations that each keep `Legal`. -/
theorem stepKeepsLegal : Obligations.StepKeepsLegal :=
  fun _ _ hs h => step_keeps_legal hs h

/-! ## Every transaction answers, and keeps the invariant -/

/-- Below an sp of 17 every instruction answers a next state. -/
theorem exec_answers (i : Instr) {s : State} (hsp : s.sp.toNat ≤ 16) : ∃ t, exec i s = .next t := by
  cases i with
  | call nnn =>
    obtain ⟨-, e⟩ | ⟨-, e⟩ | ⟨hlt, -⟩ := execCall_cases nnn s
    · exact ⟨_, e⟩
    · exact ⟨_, e⟩
    · omega
  | ret =>
    obtain ⟨-, e⟩ | ⟨-, _, e⟩ | ⟨hlt, -⟩ := execRet_cases s
    · exact ⟨_, e⟩
    · exact ⟨_, e⟩
    · omega
  | _ => exact ⟨_, rfl⟩

theorem step_of_halted {s : State} {r : FaultRecord} (h : s.status = .halted r) : step s = .next s.closeLoad := by
  simp [step, h, State.haltedStep]

theorem step_of_awaitingKey {s : State} (h : s.status = .awaitingKey) : step s = .next s.closeLoad.waitStep := by
  simp [step, h]

theorem step_of_decode {s : State} {i : Instr} (h : s.status = .running) (hi : decode s.fetchWord = some i) :
    step s = exec i s.closeLoad := by
  simp [step, cycle, h, hi]

theorem step_of_unknown {s : State} (h : s.status = .running) (hi : decode s.fetchWord = none) :
    step s = .next (s.closeLoad.takeFault .unknownInstruction s.fetchWord) := by
  simp [step, cycle, h, hi]

theorem step_answers {s : State} (hsp : s.sp.toNat ≤ 16) : ∃ t, step s = .next t := by
  cases h : s.status with
  | halted r => exact ⟨_, step_of_halted h⟩
  | awaitingKey => exact ⟨_, step_of_awaitingKey h⟩
  | running =>
    cases hi : decode s.fetchWord with
    | none => exact ⟨_, step_of_unknown h hi⟩
    | some i => rw [step_of_decode h hi]; exact exec_answers i hsp

theorem transact_step_of_next {s t : State} (h : step s = .next t) :
    transact .step s = .next (t, t.stepResult) := by
  simp [transact, h, afterStep]

theorem transact_stepAndTick_of_next {s t : State} (h : step s = .next t) :
    transact .stepAndTick s = .next (t.tick, t.stepResult) := by
  simp [transact, h, afterStep]

theorem transact_answers (tr : Transaction) {s : State} (hsp : s.sp.toNat ≤ 16) :
    ∃ t r, transact tr s = .next (t, r) := by
  obtain ⟨t, ht⟩ := step_answers hsp
  cases tr with
  | step => exact ⟨_, _, transact_step_of_next ht⟩
  | stepAndTick => exact ⟨_, _, transact_stepAndTick_of_next ht⟩
  | _ => exact ⟨_, _, rfl⟩

/-- What a transaction that answers has done. -/
theorem transact_cases {tr : Transaction} {s t : State} {r : Response} (h : transact tr s = .next (t, r)) :
    (tr = .reset ∧ t = s.resetCore ∧ r = .nothing) ∨
    (∃ rom, tr = .load rom ∧ s.load rom = (t, r)) ∨
    (tr = .step ∧ step s = .next t ∧ r = t.stepResult) ∨
    (tr = .tick ∧ t = s.tick ∧ r = .nothing) ∨
    (∃ k, tr = .setKeys k ∧ t = s.setKeys k ∧ r = .nothing) ∨
    (tr = .stepAndTick ∧ ∃ u, step s = .next u ∧ t = u.tick ∧ r = u.stepResult) := by
  cases tr with
  | reset => cases h; exact .inl ⟨rfl, rfl, rfl⟩
  | load rom => exact .inr (.inl ⟨rom, rfl, Host.Outcome.next.inj h⟩)
  | step =>
    cases hs : step s with
    | next u =>
      rw [transact_step_of_next hs] at h
      cases h
      exact .inr (.inr (.inl ⟨rfl, rfl, rfl⟩))
    | fault e | refused e => simp [transact, hs, afterStep] at h
  | tick => cases h; exact .inr (.inr (.inr (.inl ⟨rfl, rfl, rfl⟩)))
  | setKeys k => cases h; exact .inr (.inr (.inr (.inr (.inl ⟨k, rfl, rfl, rfl⟩))))
  | stepAndTick =>
    cases hs : step s with
    | next u =>
      rw [transact_stepAndTick_of_next hs] at h
      cases h
      exact .inr (.inr (.inr (.inr (.inr ⟨rfl, u, rfl, rfl, rfl⟩))))
    | fault e | refused e => simp [transact, hs, afterStep] at h

theorem transact_keeps_legal {tr : Transaction} {s t : State} {r : Response} (hs : s.Legal)
    (h : transact tr s = .next (t, r)) : t.Legal := by
  obtain ⟨-, rfl, -⟩ | ⟨rom, -, e⟩ | ⟨-, hstep, -⟩ | ⟨-, rfl, -⟩ | ⟨k, -, rfl, -⟩ | ⟨-, u, hstep, rfl, -⟩ :=
    transact_cases h
  · exact s.resetCore_legal
  · have hload := hs.load rom
    rwa [e] at hload
  · exact step_keeps_legal hs hstep
  · exact hs.tick
  · exact hs.setKeys k
  · exact (step_keeps_legal hs hstep).tick

/-! ## Schedules -/

@[simp] theorem transactAll_nil (s : State) : transactAll [] s = .next (s, []) := rfl

/-- A schedule answers exactly when its first transaction does and the rest does from the state that leaves. -/
theorem transactAll_cons {tr : Transaction} {ts : List Transaction} {s t : State} {rs : List Response} :
    transactAll (tr :: ts) s = .next (t, rs) ↔
      ∃ s' r rs', transact tr s = .next (s', r) ∧ transactAll ts s' = .next (t, rs') ∧ rs = r :: rs' := by
  cases h : transact tr s with
  | next a =>
    obtain ⟨s', r⟩ := a
    cases h' : transactAll ts s' with
    | next b => simp [transactAll, h, h', Prod.ext_iff, eq_comm, and_assoc]
    | fault e | refused e => simp [transactAll, h, h']
  | fault e | refused e => simp [transactAll, h]

theorem transactAll_keeps_legal (ts : List Transaction) {s : State} (hs : s.Legal) :
    ∃ t rs, transactAll ts s = .next (t, rs) ∧ t.Legal := by
  induction ts generalizing s with
  | nil => exact ⟨s, [], rfl, hs⟩
  | cons tr ts ih =>
    obtain ⟨s', r, hr⟩ := transact_answers tr hs.spLe
    obtain ⟨t, rs, hrs, ht⟩ := ih (transact_keeps_legal hs hr)
    exact ⟨t, r :: rs, transactAll_cons.mpr ⟨s', r, rs, hr, hrs, rfl⟩, ht⟩

/-- Settles O55, by induction on the schedule: a legal state has sp at most 16, so the next transaction answers, and it
leaves a legal state. -/
theorem scheduleKeepsLegal : Obligations.ScheduleKeepsLegal :=
  fun ts _ hs => transactAll_keeps_legal ts hs

end Sys2Proof.Machine

/-! # What a word that decodes is the word of -/

namespace Sys2Proof

/-! ## Fields as masked words (30_encoding.md R68) -/

section
variable (w : Word)

theorem fieldX_shifted : (fieldX w).setWidth 16 <<< 8 = w &&& 0x0F00 := by
  apply BitVec.eq_of_getLsbD_eq
  intro k hk
  interval_cases k <;> simp [fieldX]

theorem fieldY_shifted : (fieldY w).setWidth 16 <<< 4 = w &&& 0x00F0 := by
  apply BitVec.eq_of_getLsbD_eq
  intro k hk
  interval_cases k <;> simp [fieldY]

theorem fieldN_extended : (fieldN w).setWidth 16 = w &&& 0x000F := by
  apply BitVec.eq_of_getLsbD_eq
  intro k hk
  interval_cases k <;> simp [fieldN]

theorem fieldNN_extended : (fieldNN w).setWidth 16 = w &&& 0x00FF := by
  apply BitVec.eq_of_getLsbD_eq
  intro k hk
  interval_cases k <;> simp [fieldNN]

/-- Masks that cover every bit put a word together again. -/
theorem or_masks {a b : Word} (h : a ||| b = 0xFFFF) : w &&& a ||| w &&& b = w := by
  rw [← BitVec.and_or_distrib_left, h]
  exact BitVec.and_allOnes

end

/-! ## The encoder undoes each format's row (30_encoding.md R69) -/

namespace OpcodeRow

/-- Whatever word the row matches is the word of the instruction that the row builds from it. -/
def EncodesBack (r : OpcodeRow) : Prop := ∀ w, r.hits w = true → encode (r.build w) = w

theorem encodesBack_addr {m : String} {p : Word} {c : Word → Instr} (op : Nibble)
    (hc : ∀ nnn, encode (c nnn) = packAddr op nnn) (hp : p = op.setWidth 16 <<< 12) :
    (rowAddr m p c).EncodesBack := by
  intro w h
  have hw : w &&& (0xF000 : Word) = op.setWidth 16 <<< 12 := hp ▸ beq_iff_eq.mp h
  change encode (c (fieldNNN w)) = w
  rw [hc, packAddr, ← hw, fieldNNN, BitVec.and_assoc]
  exact or_masks w rfl

theorem encodesBack_xnn {m : String} {p : Word} {c : Reg → Byte → Instr} (op : Nibble)
    (hc : ∀ x nn, encode (c x nn) = packXNN op x nn) (hp : p = op.setWidth 16 <<< 12) :
    (rowXNN m p c).EncodesBack := by
  intro w h
  have hw : w &&& (0xF000 : Word) = op.setWidth 16 <<< 12 := hp ▸ beq_iff_eq.mp h
  change encode (c (fieldX w) (fieldNN w)) = w
  rw [hc, packXNN, ← hw, fieldX_shifted, fieldNN_extended, ← BitVec.and_or_distrib_left]
  exact or_masks w rfl

theorem encodesBack_xys {m : String} {p : Word} {c : Reg → Reg → Instr} (op n : Nibble)
    (hc : ∀ x y, encode (c x y) = packXYN op x y n) (hp : p = (op.setWidth 16 <<< 12) ||| n.setWidth 16) :
    (rowXYS m p c).EncodesBack := by
  intro w h
  have hw : w &&& (0xF00F : Word) = (op.setWidth 16 <<< 12) ||| n.setWidth 16 := hp ▸ beq_iff_eq.mp h
  change encode (c (fieldX w) (fieldY w)) = w
  calc encode (c (fieldX w) (fieldY w))
      = ((op.setWidth 16 <<< 12) ||| n.setWidth 16) |||
          ((fieldX w).setWidth 16 <<< 8 ||| (fieldY w).setWidth 16 <<< 4) := by rw [hc, packXYN]; ac_rfl
    _ = w &&& 0xF00F ||| w &&& (0x0F00 ||| 0x00F0) := by
        rw [← hw, fieldX_shifted, fieldY_shifted, ← BitVec.and_or_distrib_left]
    _ = w := or_masks w rfl

theorem encodesBack_xs {m : String} {p : Word} {c : Reg → Instr} (op : Nibble) (sub : Byte)
    (hc : ∀ x, encode (c x) = packXNN op x sub) (hp : p = (op.setWidth 16 <<< 12) ||| sub.setWidth 16) :
    (rowXS m p c).EncodesBack := by
  intro w h
  have hw : w &&& (0xF0FF : Word) = (op.setWidth 16 <<< 12) ||| sub.setWidth 16 := hp ▸ beq_iff_eq.mp h
  change encode (c (fieldX w)) = w
  calc encode (c (fieldX w))
      = ((op.setWidth 16 <<< 12) ||| sub.setWidth 16) ||| (fieldX w).setWidth 16 <<< 8 := by
        rw [hc, packXNN]; ac_rfl
    _ = w &&& 0xF0FF ||| w &&& 0x0F00 := by rw [← hw, fieldX_shifted]
    _ = w := or_masks w rfl

/-- A row without a field. -/
theorem encodesBack_const {m : String} {p : Word} {i : Instr} (hi : encode i = p) :
    EncodesBack { mnemonic := m, mask := 0xFFFF, pattern := p, build := fun _ => i } := by
  intro w h
  have hw : w &&& (0xFFFF : Word) = p := beq_iff_eq.mp h
  exact hi.trans (hw.symm.trans BitVec.and_allOnes)

theorem encodesBack_drw :
    EncodesBack { mnemonic := "DRW", mask := 0xF000, pattern := 0xD000,
                  build := fun w => .drw (fieldX w) (fieldY w) (fieldN w) } := by
  intro w h
  have hw : w &&& (0xF000 : Word) = 0xD000 := beq_iff_eq.mp h
  change packXYN 0xD (fieldX w) (fieldY w) (fieldN w) = w
  have hop : (0xD : Nibble).setWidth 16 <<< 12 = (0xD000 : Word) := rfl
  rw [packXYN, fieldX_shifted, fieldY_shifted, fieldN_extended, hop, ← hw, ← BitVec.and_or_distrib_left,
    ← BitVec.and_or_distrib_left]
  exact or_masks w rfl

theorem rowsLow_encodeBack : ∀ r ∈ rowsLow, r.EncodesBack := by
  simp only [rowsLow, List.forall_mem_cons]
  exact ⟨encodesBack_const rfl, encodesBack_const rfl, encodesBack_addr 0x1 (fun _ => rfl) rfl,
    encodesBack_addr 0x2 (fun _ => rfl) rfl, encodesBack_xnn 0x3 (fun _ _ => rfl) rfl,
    encodesBack_xnn 0x4 (fun _ _ => rfl) rfl, encodesBack_xys 0x5 0x0 (fun _ _ => rfl) rfl,
    encodesBack_xnn 0x6 (fun _ _ => rfl) rfl, encodesBack_xnn 0x7 (fun _ _ => rfl) rfl, List.forall_mem_nil _⟩

theorem rowsAlu_encodeBack : ∀ r ∈ rowsAlu, r.EncodesBack := by
  simp only [rowsAlu, List.forall_mem_cons]
  exact ⟨encodesBack_xys 0x8 0x0 (fun _ _ => rfl) rfl, encodesBack_xys 0x8 0x1 (fun _ _ => rfl) rfl,
    encodesBack_xys 0x8 0x2 (fun _ _ => rfl) rfl, encodesBack_xys 0x8 0x3 (fun _ _ => rfl) rfl,
    encodesBack_xys 0x8 0x4 (fun _ _ => rfl) rfl, encodesBack_xys 0x8 0x5 (fun _ _ => rfl) rfl,
    encodesBack_xys 0x8 0x6 (fun _ _ => rfl) rfl, encodesBack_xys 0x8 0x7 (fun _ _ => rfl) rfl,
    encodesBack_xys 0x8 0xE (fun _ _ => rfl) rfl, List.forall_mem_nil _⟩

theorem rowsHigh_encodeBack : ∀ r ∈ rowsHigh, r.EncodesBack := by
  simp only [rowsHigh, List.forall_mem_cons]
  exact ⟨encodesBack_xys 0x9 0x0 (fun _ _ => rfl) rfl, encodesBack_addr 0xA (fun _ => rfl) rfl,
    encodesBack_addr 0xB (fun _ => rfl) rfl, encodesBack_xnn 0xC (fun _ _ => rfl) rfl,
    encodesBack_drw, List.forall_mem_nil _⟩

theorem rowsEF_encodeBack : ∀ r ∈ rowsEF, r.EncodesBack := by
  simp only [rowsEF, List.forall_mem_cons]
  exact ⟨encodesBack_xs 0xE 0x9E (fun _ => rfl) rfl, encodesBack_xs 0xE 0xA1 (fun _ => rfl) rfl,
    encodesBack_xs 0xF 0x07 (fun _ => rfl) rfl, encodesBack_xs 0xF 0x0A (fun _ => rfl) rfl,
    encodesBack_xs 0xF 0x15 (fun _ => rfl) rfl, encodesBack_xs 0xF 0x18 (fun _ => rfl) rfl,
    encodesBack_xs 0xF 0x1E (fun _ => rfl) rfl, encodesBack_xs 0xF 0x29 (fun _ => rfl) rfl,
    encodesBack_xs 0xF 0x33 (fun _ => rfl) rfl, encodesBack_xs 0xF 0x55 (fun _ => rfl) rfl,
    encodesBack_xs 0xF 0x65 (fun _ => rfl) rfl, List.forall_mem_nil _⟩

theorem opcodeRows_encodeBack : ∀ r ∈ opcodeRows, r.EncodesBack := by
  simp only [opcodeRows, List.forall_mem_append]
  exact ⟨⟨⟨rowsLow_encodeBack, rowsAlu_encodeBack⟩, rowsHigh_encodeBack⟩, rowsEF_encodeBack⟩

end OpcodeRow

/-- A decoded instruction was built by a row that matches the word. -/
theorem exists_row_of_decode {w : Word} {i : Instr} (h : decode w = some i) :
    ∃ r ∈ opcodeRows, r.hits w = true ∧ r.build w = i := by
  obtain ⟨r, hr, hi⟩ := Option.map_eq_some_iff.mp h
  exact ⟨r, List.mem_of_find?_eq_some hr, List.find?_some (p := fun r : OpcodeRow => r.hits w) hr, hi⟩

/-- Decoding loses no bit of the word. -/
theorem encode_of_decode {w : Word} {i : Instr} (h : decode w = some i) : encode i = w := by
  obtain ⟨r, hmem, hhit, rfl⟩ := exists_row_of_decode h
  exact OpcodeRow.opcodeRows_encodeBack r hmem w hhit

end Sys2Proof

/-! # StatusOk: what status says of the rest of the state, at every step and transaction -/

namespace Sys2Proof.Machine

/-! ## How an instruction may change the status -/

/-- FX0A, CALL and RET are the instructions that may write status. -/
theorem status_mem_writtenParts {i : Instr} (h : Part.status ∈ writtenParts i) :
    (∃ x, i = .ldVxK x) ∨ (∃ nnn, i = .call nnn) ∨ i = .ret := by
  cases i <;> simp_all [writtenParts]

/-- An instruction leaves the status alone, or it is FX0A and waits, or it is CALL or RET and faults. -/
theorem exec_status_cases {i : Instr} {s t : State} (h : exec i s = .next t) :
    t.status = s.status ∨
    (∃ x, i = .ldVxK x ∧ t = s.advance.enterWait x) ∨
    (∃ nnn, i = .call nnn ∧ s.sp = 16 ∧ t = s.takeFault .stackOverflow (encode i)) ∨
    (i = .ret ∧ s.sp = 0 ∧ t = s.takeFault .stackUnderflow (encode i)) := by
  by_cases hw : Part.status ∈ writtenParts i
  · obtain ⟨x, rfl⟩ | ⟨nnn, rfl⟩ | rfl := status_mem_writtenParts hw
    · exact .inr (.inl ⟨x, rfl, (Host.Outcome.next.inj h).symm⟩)
    · obtain ⟨hsp, rfl⟩ | ⟨-, rfl⟩ := exec_call_next h
      · exact .inr (.inr (.inl ⟨nnn, rfl, hsp, rfl⟩))
      · exact .inl rfl
    · obtain ⟨hsp, rfl⟩ | ⟨-, -, rfl⟩ := exec_ret_next h
      · exact .inr (.inr (.inr ⟨rfl, hsp, rfl⟩))
      · exact .inl rfl
  · exact .inl (exec_frame h .status hw)

/-! ## When StatusOk holds -/

theorem statusOk_of_running {s : State} (h : s.status = .running) : s.StatusOk := by
  simp [State.StatusOk, h]

theorem statusOk_iff_of_awaitingKey {s : State} (h : s.status = .awaitingKey) :
    s.StatusOk ↔ s.loadOpen = false ∧
      ∃ fpc : Word, s.pc = (fpc + 2) &&& 0x0FFF ∧ decode (s.mem.wordAt fpc.toNat) = some (.ldVxK s.waitX) := by
  simp [State.StatusOk, h]

theorem statusOk_iff_of_halted {s : State} {r : FaultRecord} (h : s.status = .halted r) :
    s.StatusOk ↔ s.loadOpen = false ∧ r.describes s := by
  simp [State.StatusOk, h]

/-- The recorded address of a legal state is its pc. -/
theorem fpc_toNat {s : State} (hs : s.Legal) : (s.pc.setWidth 12).toNat = s.pc.toNat := by
  rw [BitVec.toNat_setWidth]
  exact Nat.mod_eq_of_lt hs.pc12

/-- A fault whose record describes the state it is taken in leaves a status that tells the truth. -/
theorem statusOk_takeFault {s : State} (hl : s.loadOpen = false) {k : FaultKind} {w : Word}
    (hd : FaultRecord.describes { kind := k, word := w, fpc := s.pc.setWidth 12 } s) : (s.takeFault k w).StatusOk :=
  (statusOk_iff_of_halted (State.takeFault_status s k w)).mpr ⟨hl, hd⟩

/-! ## Steps -/

theorem closeLoad_keeps_statusOk {s : State} (h : s.StatusOk) : s.closeLoad.StatusOk := by
  cases hst : s.status with
  | running => exact statusOk_of_running hst
  | awaitingKey =>
    obtain ⟨-, hwait⟩ := (statusOk_iff_of_awaitingKey hst).mp h
    exact (statusOk_iff_of_awaitingKey (s := s.closeLoad) hst).mpr ⟨rfl, hwait⟩
  | halted r =>
    obtain ⟨-, hrec⟩ := (statusOk_iff_of_halted hst).mp h
    exact (statusOk_iff_of_halted (s := s.closeLoad) hst).mpr ⟨rfl, hrec⟩

/-- A wait step ends the wait or leaves what StatusOk speaks of alone. -/
theorem waitStep_keeps_statusOk {s : State} (h : s.StatusOk) : s.waitStep.StatusOk := by
  obtain ⟨-, e⟩ | ⟨d, -, e⟩ := s.waitStep_cases
  · rw [e]; exact h
  · rw [e]; exact statusOk_of_running rfl

/-- An instruction that the running state `s` fetched leaves a status that tells the truth. -/
theorem exec_statusOk {i : Instr} {s t : State} (hs : s.Legal) (hl : s.loadOpen = false) (hr : s.status = .running)
    (hi : decode s.fetchWord = some i) (h : exec i s = .next t) : t.StatusOk := by
  obtain hst | ⟨x, rfl, rfl⟩ | ⟨nnn, rfl, hsp, rfl⟩ | ⟨rfl, hsp, rfl⟩ := exec_status_cases h
  · exact statusOk_of_running (hst.trans hr)
  · exact (statusOk_iff_of_awaitingKey rfl).mpr ⟨hl, s.pc, rfl, hi⟩
  · have hw := encode_of_decode hi
    exact statusOk_takeFault hl ⟨fpc_toNat hs, hw, hsp, nnn, hw ▸ hi⟩
  · have hw := encode_of_decode hi
    exact statusOk_takeFault hl ⟨fpc_toNat hs, hw, hsp, hw ▸ hi⟩

theorem step_keeps_statusOk {s t : State} (hs : s.Legal) (hok : s.StatusOk) (h : step s = .next t) :
    t.StatusOk := by
  obtain ⟨-, -, rfl⟩ | ⟨-, rfl⟩ | ⟨-, hn, rfl⟩ | ⟨hr, i, hi, he⟩ := step_cases h
  · exact closeLoad_keeps_statusOk hok
  · exact waitStep_keeps_statusOk (closeLoad_keeps_statusOk hok)
  · exact statusOk_takeFault rfl ⟨fpc_toNat hs.closeLoad, rfl, hn⟩
  · exact exec_statusOk hs.closeLoad rfl hr hi he

/-- Settles O56: a step either leaves the status alone, waits at the FX0A it fetched, or takes a fault on the word it
fetched, whose record is then true. -/
theorem stepKeepsStatusOk : Obligations.StepKeepsStatusOk :=
  fun _ _ hs hok h => step_keeps_statusOk hs hok h

/-! ## Transactions -/

/-- A load is refused unless the state runs, since loading is closed in the other two statuses. -/
theorem load_keeps_statusOk {s : State} (h : s.StatusOk) (rom : List Byte) : (s.load rom).1.StatusOk := by
  obtain ⟨hopen, -, e⟩ | ⟨-, e⟩ := s.load_cases rom
  · have hst : s.status = .running := by
      cases hst : s.status with
      | running => rfl
      | awaitingKey => simp [statusOk_iff_of_awaitingKey hst, hopen] at h
      | halted r => simp [statusOk_iff_of_halted hst, hopen] at h
    rw [e]; exact statusOk_of_running hst
  · rw [e]; exact h

theorem transact_keeps_statusOk {tr : Transaction} {s t : State} {r : Response} (hs : s.Legal) (hok : s.StatusOk)
    (h : transact tr s = .next (t, r)) : t.StatusOk := by
  obtain ⟨-, rfl, -⟩ | ⟨rom, -, e⟩ | ⟨-, hstep, -⟩ | ⟨-, rfl, -⟩ | ⟨k, -, rfl, -⟩ | ⟨-, u, hstep, rfl, -⟩ :=
    transact_cases h
  · exact statusOk_of_running s.resetCore_status
  · have hload := load_keeps_statusOk hok rom
    rwa [e] at hload
  · exact step_keeps_statusOk hs hok hstep
  · exact hok
  · exact hok
  · exact step_keeps_statusOk (t := u) hs hok hstep

/-- Settles O57: the step is O56's, a load is taken only by a running core, and the rest leaves what the status speaks
of alone. -/
theorem transactionKeepsStatusOk : Obligations.TransactionKeepsStatusOk :=
  fun _ _ _ _ hs hok h => transact_keeps_statusOk hs hok h

end Sys2Proof.Machine

/-! # Who writes what, what VF and the key latch depend on -/

namespace Sys2Proof.Machine

/-! ## Writers -/

/-- A running step of the decoded instruction changes nothing but the instruction's pieces and load_open. -/
theorem step_frame {i : Instr} {s t : State} (hr : s.status = .running) (hi : decode s.fetchWord = some i)
    (h : step s = .next t) : onlyChanges (writtenParts i ++ [.loadOpen]) s t := by
  rw [step_of_decode hr hi] at h
  exact (closeLoad_frame s).trans (exec_frame h)

/-- Settles O37: each clause is the frame of the step at one piece of state, which the instruction is not listed to
write. -/
theorem onlyTheListedWriters : Obligations.OnlyTheListedWriters := by
  intro s t i hr hi h
  have frame := step_frame hr hi h
  refine ⟨fun hw => frame .i ?_, fun hw => frame .sp ?_, fun hw => frame .stack ?_, fun hw => frame .dt ?_,
    fun hw => frame .st ?_, fun hw => frame .fb ?_, fun hw => frame .mem ?_, frame .keys ?_, frame .cfg ?_⟩
  all_goals cases i <;> simp_all [writtenParts]

/-! ## VF -/

/-- The registers that an instruction may write (42_alu.md R103, 10_state.md R21); `exec_readV` ties the table to the
meanings. -/
def writesReg : Instr → Reg → Prop
  | .ldByte x _, r | .addByte x _, r | .rnd x _, r | .ldVxDt x, r => r = x
  | .ldReg x _, r | .orReg x _, r | .andReg x _, r | .xorReg x _, r => r = x
  | .addReg x _, r | .sub x _, r | .shr x _, r | .subn x _, r | .shl x _, r => r = x ∨ r = regVF
  | .drw _ _ _, r => r = regVF
  | .ldVxMem x, r => r.toNat ≤ x.toNat
  | _, _ => False

/-- FX65 loads the registers below `n` and leaves the rest (43_index_memory.md R122). -/
theorem loadRegs_getElem (m : Memory) (addr n : Nat) (v : Vector Byte 16) (k : Nat) (hk : k < 16) :
    (loadRegs m addr n v)[k] = if k < n then m.readAt (addr + k) else v[k] := by
  induction n with
  | zero => simp [loadRegs]
  | succ n ih =>
    rw [loadRegs, Vector.getElem_setIfInBounds, ih]
    by_cases hnk : n = k
    · subst hnk; simp
    · have hiff : k < n + 1 ↔ k < n := by omega
      simp [hnk, hiff]

/-- A register that an instruction is not listed to write keeps its value. -/
theorem exec_readV {i : Instr} {s t : State} (h : exec i s = .next t) {r : Reg} (hr : ¬ writesReg i r) :
    t.readV r = s.readV r := by
  cases i with
  | ldByte | addByte | ldReg | orReg | andReg | xorReg | ldVxDt | rnd | addReg | sub | shr | subn | shl | drw =>
    refine of_next (P := fun t => t.readV r = s.readV r) ?_ h
    simp_all [writesReg]
  | ldVxMem x =>
    refine of_next (P := fun t => t.readV r = s.readV r) ?_ h
    have hlt : ¬ r.toNat < x.toNat + 1 := by simpa [writesReg, Nat.lt_succ_iff] using hr
    exact (loadRegs_getElem ..).trans (if_neg hlt)
  | _ => exact exec_frame h .v (by simp [writtenParts]) r

/-- Settles O38: VF is none of the registers that the instruction writes. -/
theorem vfSideEffects : Obligations.VfSideEffects := by
  intro s t i h hflag hdest
  refine exec_readV h ?_
  cases i with
  | ldVxMem x =>
    have hx : x ≠ 0xF := by simpa using hdest
    change ¬ (0xF : Reg).toNat ≤ x.toNat
    bv_omega
  | _ => simp_all [writesReg, eq_comm]

/-! ## The key latch -/

theorem State.skipIf_setKeys (s : State) (k : Word) (c : Bool) :
    (s.setKeys k).skipIf c = (s.skipIf c).setKeys k := by
  cases c <;> rfl

/-- An instruction that does not look at the latch does the same under any other latch value. -/
theorem exec_setKeys {i : Instr} {s t : State} (k : Word) (hi : ∀ x, i ≠ .skp x ∧ i ≠ .sknp x ∧ i ≠ .ldVxK x)
    (h : exec i s = .next t) : exec i (s.setKeys k) = .next (t.setKeys k) := by
  cases i with
  | skp x => exact absurd rfl (hi x).1
  | sknp x => exact absurd rfl (hi x).2.1
  | ldVxK x => exact absurd rfl (hi x).2.2
  | call nnn =>
    obtain ⟨hsp, rfl⟩ | ⟨hsp, rfl⟩ := exec_call_next h
    · exact if_pos hsp
    · have hne : s.sp ≠ 16 := by rintro e; simp [e] at hsp
      exact (if_neg hne).trans (if_pos hsp)
  | ret =>
    obtain ⟨hsp, rfl⟩ | ⟨hsp, hlt, rfl⟩ := exec_ret_next h
    · exact if_pos hsp
    · exact execRet_of_pop (s := s.setKeys k) hsp hlt
  | seByte | sneByte | seReg | sneReg =>
    refine of_next (P := fun t => exec _ (s.setKeys k) = .next (t.setKeys k)) ?_ h
    exact congrArg Host.Outcome.next (State.skipIf_setKeys s.advance k _)
  | _ => exact of_next (P := fun t => exec _ (s.setKeys k) = .next (t.setKeys k)) rfl h

/-- Settles O39: the step closes loading, which does not touch the latch, and runs the same instruction. -/
theorem keysUnseenElsewhere : Obligations.KeysUnseenElsewhere := by
  intro s t k i hr hi hkeys h
  rw [step_of_decode hr hi] at h
  exact (step_of_decode (s := s.setKeys k) hr hi).trans (exec_setKeys k hkeys h)

end Sys2Proof.Machine

/-! # Loading, reset, the read ports and the combined transaction -/

namespace Sys2Proof.Machine

/-! ## A load -/

theorem load_of_open {s : State} {rom : List Byte} (ho : s.loadOpen = true) (hlen : rom.length ≤ progMax) :
    s.load rom = ((s.storeBytes progBase rom).closeLoad, .ok) := by
  obtain ⟨-, -, e⟩ | ⟨hc | hlt, -⟩ := s.load_cases rom
  · exact e
  · simp [ho] at hc
  · omega

theorem load_of_closed_or_long {s : State} {rom : List Byte} (h : s.loadOpen = false ∨ progMax < rom.length) :
    s.load rom = (s, .loadError) := by
  obtain ⟨ho, hlen, -⟩ | ⟨-, e⟩ := s.load_cases rom
  · obtain hc | hlt := h
    · simp [ho] at hc
    · omega
  · exact e

/-! ## Who closes loading -/

theorem loadOpen_not_mem_writtenParts (i : Instr) : Part.loadOpen ∉ writtenParts i := by
  cases i <;> simp [writtenParts]

theorem State.waitStep_loadOpen (s : State) : s.waitStep.loadOpen = s.loadOpen := by
  obtain ⟨-, e⟩ | ⟨d, -, e⟩ := s.waitStep_cases
  · rw [e]
  · rw [e]; rfl

/-- Every step closes loading, in every status (40_cycle.md R82). -/
theorem step_loadOpen {s t : State} (h : step s = .next t) : t.loadOpen = false := by
  obtain ⟨-, -, rfl⟩ | ⟨-, rfl⟩ | ⟨-, -, rfl⟩ | ⟨-, i, -, he⟩ := step_cases h
  · rfl
  · exact s.closeLoad.waitStep_loadOpen
  · rfl
  · exact exec_frame he .loadOpen (loadOpen_not_mem_writtenParts i)

/-- Settles O41: the ROM lies inside memory without wrapping, so each of its bytes is read back and every byte outside
it is as before. -/
theorem loadWholeOrRefused : Obligations.LoadWholeOrRefused := by
  intro s rom hwf
  refine ⟨fun ho hlen => ?_, fun hno => congrArg Host.Outcome.next (load_of_closed_or_long hno),
    fun t h => step_loadOpen h, fun t r h => by cases h; rfl⟩
  refine ⟨_, congrArg Host.Outcome.next (load_of_open ho hlen), fun j hj => ?_, fun a ha hout => ?_, rfl, ?_⟩
  · exact Memory.readAt_writeBytes_inside hwf progBase rom (by simp only [memSize]; omega) j hj
  · refine Memory.readAt_writeBytes_outside hwf progBase rom a fun k hk => ?_
    simp only [memSize, progBase]
    omega
  · exact ((storeBytes_frame s progBase rom).trans (closeLoad_frame _)).mono (by simp)

/-! ## Loading stays closed along a schedule -/

theorem transact_keeps_closed {tr : Transaction} {s t : State} {r : Response} (hl : s.loadOpen = false)
    (hne : tr ≠ .reset) (h : transact tr s = .next (t, r)) :
    t.loadOpen = false ∧ ∀ rom, tr = .load rom → r = .loadError := by
  obtain ⟨rfl, -, -⟩ | ⟨rom, rfl, e⟩ | ⟨rfl, hstep, -⟩ | ⟨rfl, rfl, -⟩ | ⟨k, rfl, rfl, -⟩ | ⟨rfl, u, hstep, rfl, -⟩ :=
    transact_cases h
  · exact absurd rfl hne
  · rw [load_of_closed_or_long (.inl hl)] at e
    cases e
    exact ⟨hl, fun _ _ => rfl⟩
  · exact ⟨step_loadOpen hstep, nofun⟩
  · exact ⟨hl, nofun⟩
  · exact ⟨hl, nofun⟩
  · exact ⟨step_loadOpen (t := u) hstep, nofun⟩

/-- Settles O42, by induction on the schedule: each transaction but reset keeps loading closed, and a load is then
refused. -/
theorem loadingStaysClosed : Obligations.LoadingStaysClosed := by
  intro ts
  induction ts with
  | nil =>
    intro s t rs hl _ h
    cases h
    exact ⟨hl, rfl, nofun⟩
  | cons tr ts ih =>
    intro s t rs hl hne h
    obtain ⟨hne, hnes⟩ : .reset ≠ tr ∧ .reset ∉ ts := by simpa using hne
    obtain ⟨s', r, rs, hr, hrs, rfl⟩ := transactAll_cons.mp h
    obtain ⟨hl', hload⟩ := transact_keeps_closed hl hne.symm hr
    obtain ⟨ht, hlen, hloads⟩ := ih s' t rs hl' hnes hrs
    refine ⟨ht, by simp [hlen], fun k hk rom e => ?_⟩
    cases k with
    | zero => exact congrArg some (hload rom e)
    | succ k => exact hloads k (Nat.lt_of_succ_lt_succ hk) rom e

/-! ## Read ports, the combined transaction, reset -/

theorem State.faultRecord_of_halted {s : State} {r : FaultRecord} (h : s.status = .halted r) :
    s.faultRecord = some r := by
  simp [State.faultRecord, h]

theorem State.faultRecord_of_notHalted {s : State} (h : s.notHalted) : s.faultRecord = none := by
  cases hst : s.status with
  | halted r => exact absurd hst (h r)
  | running | awaitingKey => simp [State.faultRecord, hst]

/-- Settles O45: the ports are projections of the state, and the fault record is the argument of Halted. -/
theorem readPorts : Obligations.ReadPorts :=
  fun _ _ _ => ⟨rfl, rfl, rfl, decide_eq_true_iff, fun _ => State.faultRecord_of_halted,
    State.faultRecord_of_notHalted⟩

/-- Settles O46: a step answers, and the combined transaction ticks the state it leaves. -/
theorem stepBeforeTick : Obligations.StepBeforeTick := by
  intro s hsp
  obtain ⟨t, ht⟩ := step_answers hsp
  exact ⟨t, t.tick, t.stepResult, transact_step_of_next ht, rfl, transact_stepAndTick_of_next ht⟩

/-- Settles O53: the memory that reset leaves is canonical, every other field is a constant, and the core runs. -/
theorem resetIsLegal : Obligations.ResetIsLegal :=
  ⟨State.reset_legal, statusOk_of_running rfl,
    fun s => ⟨s.resetCore_legal, statusOk_of_running s.resetCore_status⟩⟩

end Sys2Proof.Machine

/-! # A word stored over the next instruction is fetched (20_memory.md R64, 43_index_memory.md R121) -/

namespace Sys2Proof.Machine

/-- The high byte stands 256 times the low byte's place (20_memory.md R56). -/
theorem joinBytes_toNat (high low : Byte) : (joinBytes high low).toNat = high.toNat * 256 + low.toNat := by
  have hshift : (high.setWidth 16 <<< 8).toNat = high.toNat <<< 8 := by
    simp only [BitVec.toNat_shiftLeft, BitVec.toNat_setWidth, Nat.shiftLeft_eq]
    omega
  rw [joinBytes, BitVec.toNat_or, hshift, BitVec.toNat_setWidth_of_le (by decide),
    ← Nat.shiftLeft_add_eq_or_of_lt low.isLt, Nat.shiftLeft_eq]

@[simp] theorem State.regsUpTo_length (s : State) (x : Reg) : (s.regsUpTo x).length = x.toNat + 1 := by
  rw [State.regsUpTo, List.length_take, Vector.length_toList]
  exact Nat.min_eq_left x.isLt

theorem State.regsUpTo_getElem (s : State) {x r : Reg} (hr : r.toNat < (s.regsUpTo x).length) :
    (s.regsUpTo x)[r.toNat] = s.readV r := by
  simp [State.regsUpTo, State.readV]

/-- FX55's run of stores holds register r at I + r, for every r up to x. -/
theorem readAt_storeBytes_regsUpTo {s u : State} (hm : u.mem.wf = true) (a : Nat) {x r : Reg}
    (hr : r.toNat ≤ x.toNat) : (u.storeBytes a (s.regsUpTo x)).mem.readAt (a + r.toNat) = s.readV r := by
  have hlen : r.toNat < (s.regsUpTo x).length := by rw [State.regsUpTo_length]; omega
  have hfit : (s.regsUpTo x).length ≤ memSize := by
    have := x.isLt
    rw [State.regsUpTo_length, memSize]
    omega
  rw [State.storeBytes_mem, Memory.readAt_writeBytes_inside hm a _ hfit _ hlen, State.regsUpTo_getElem]

/-- Settles O20: the advanced pc is I, so the fetch reads the bytes at I and I + 1, where V0 and V1 were stored. -/
theorem storeSeenByNextFetch : Obligations.StoreSeenByNextFetch := by
  intro x s hm hx hi
  refine ⟨s.advance.storeBytes s.i.toNat (s.regsUpTo x), rfl, ?_⟩
  have h0 := readAt_storeBytes_regsUpTo (s := s) (u := s.advance) hm s.i.toNat (r := 0) (Nat.zero_le x.toNat)
  have h1 := readAt_storeBytes_regsUpTo (s := s) (u := s.advance) hm s.i.toNat (r := 1) hx
  have hword : (s.advance.storeBytes s.i.toNat (s.regsUpTo x)).fetchWord = joinBytes (s.readV 0) (s.readV 1) := by
    have hpc : (s.advance.storeBytes s.i.toNat (s.regsUpTo x)).pc = s.i := hi.symm
    rw [State.fetchWord, hpc]
    exact congrArg₂ joinBytes h0 h1
  rw [hword, joinBytes_toNat]

end Sys2Proof.Machine

/-! # The decoder and the encoder undo each other (30_encoding.md) -/

namespace Sys2Proof

/-! ## At most one row of the opcode map matches a word (R75) -/

/-- Of any two rows, some bit that both masks test is fixed differently by the two patterns. -/
theorem opcodeRows_patterns_differ :
    opcodeRows.Pairwise fun r q => r.pattern &&& q.mask ≠ q.pattern &&& r.mask := by
  decide

/-- Two rows that match one word agree on every bit that both masks test. -/
theorem OpcodeRow.patterns_agree_of_hits {r q : OpcodeRow} {w : Word} (hr : r.hits w = true) (hq : q.hits w = true) :
    r.pattern &&& q.mask = q.pattern &&& r.mask := by
  have hrw : w &&& r.mask = r.pattern := beq_iff_eq.mp hr
  have hqw : w &&& q.mask = q.pattern := beq_iff_eq.mp hq
  rw [← hrw, ← hqw]
  ac_rfl

theorem not_hits_of_hits_of_lt {j k : Nat} {r q : OpcodeRow} {w : Word} (hlt : j < k)
    (hj : opcodeRows[j]? = some r) (hk : opcodeRows[k]? = some q) (hr : r.hits w = true) : ¬ q.hits w = true := by
  intro hq
  obtain ⟨hjlen, rfl⟩ := List.getElem?_eq_some_iff.mp hj
  obtain ⟨hklen, rfl⟩ := List.getElem?_eq_some_iff.mp hk
  exact List.pairwise_iff_getElem.mp opcodeRows_patterns_differ j k hjlen hklen hlt
    (OpcodeRow.patterns_agree_of_hits hr hq)

theorem row_index_unique {j k : Nat} {r q : OpcodeRow} {w : Word} (hj : opcodeRows[j]? = some r)
    (hk : opcodeRows[k]? = some q) (hr : r.hits w = true) (hq : q.hits w = true) : j = k := by
  rcases lt_trichotomy j k with hlt | heq | hgt
  · exact absurd hq (not_hits_of_hits_of_lt hlt hj hk hr)
  · exact heq
  · exact absurd hr (not_hits_of_hits_of_lt hgt hk hj hq)

theorem row_unique {r q : OpcodeRow} {w : Word} (hr : r ∈ opcodeRows) (hq : q ∈ opcodeRows)
    (hrw : r.hits w = true) (hqw : q.hits w = true) : r = q := by
  obtain ⟨j, hj⟩ := List.mem_iff_getElem?.mp hr
  obtain ⟨k, hk⟩ := List.mem_iff_getElem?.mp hq
  obtain rfl := row_index_unique hj hk hrw hqw
  exact Option.some.inj (hj.symm.trans hk)

theorem decode_eq_none_iff {w : Word} : decode w = none ↔ ∀ r ∈ opcodeRows, ¬ r.hits w = true := by
  rw [decode, Option.map_eq_none_iff, List.find?_eq_none]

/-- The row that decode finds is the one row that matches. -/
theorem decode_of_hits {r : OpcodeRow} {w : Word} (hr : r ∈ opcodeRows) (hw : r.hits w = true) :
    decode w = some (r.build w) := by
  cases hd : decode w with
  | none => exact absurd hw (decode_eq_none_iff.mp hd r hr)
  | some i =>
    obtain ⟨q, hq, hqw, rfl⟩ := exists_row_of_decode hd
    rw [row_unique hr hq hw hqw]

/-- Settles O50: two rows that matched one word would agree on the bits that both test, and no two rows do. -/
theorem noTwoRowsMatch : Obligations.NoTwoRowsMatch :=
  ⟨fun _ _ _ _ _ hj hk hr hq => row_index_unique hj hk hr hq, fun _ _ hr hw => decode_of_hits hr hw⟩

/-! ## Decoding an instruction's own word (R67, R69) -/

/-- The rows' laws put together: the row of each instruction. -/
theorem exists_row_of_encode (i : Instr) : Laws.EncodingRow.Statement i :=
  match i with
  | .cls => Laws.EncodingRow.cls
  | .ret => Laws.EncodingRow.ret
  | .jp nnn => Laws.EncodingRow.jp nnn
  | .call nnn => Laws.EncodingRow.call nnn
  | .seByte x nn => Laws.EncodingRow.seByte x nn
  | .sneByte x nn => Laws.EncodingRow.sneByte x nn
  | .seReg x y => Laws.EncodingRow.seReg x y
  | .ldByte x nn => Laws.EncodingRow.ldByte x nn
  | .addByte x nn => Laws.EncodingRow.addByte x nn
  | .ldReg x y => Laws.EncodingRow.ldReg x y
  | .orReg x y => Laws.EncodingRow.orReg x y
  | .andReg x y => Laws.EncodingRow.andReg x y
  | .xorReg x y => Laws.EncodingRow.xorReg x y
  | .addReg x y => Laws.EncodingRow.addReg x y
  | .sub x y => Laws.EncodingRow.sub x y
  | .shr x y => Laws.EncodingRow.shr x y
  | .subn x y => Laws.EncodingRow.subn x y
  | .shl x y => Laws.EncodingRow.shl x y
  | .sneReg x y => Laws.EncodingRow.sneReg x y
  | .ldI nnn => Laws.EncodingRow.ldI nnn
  | .jpV0 nnn => Laws.EncodingRow.jpV0 nnn
  | .rnd x nn => Laws.EncodingRow.rnd x nn
  | .drw x y n => Laws.EncodingRow.drw x y n
  | .skp x => Laws.EncodingRow.skp x
  | .sknp x => Laws.EncodingRow.sknp x
  | .ldVxDt x => Laws.EncodingRow.ldVxDt x
  | .ldVxK x => Laws.EncodingRow.ldVxK x
  | .ldDtVx x => Laws.EncodingRow.ldDtVx x
  | .ldStVx x => Laws.EncodingRow.ldStVx x
  | .addIVx x => Laws.EncodingRow.addIVx x
  | .ldFVx x => Laws.EncodingRow.ldFVx x
  | .ldBVx x => Laws.EncodingRow.ldBVx x
  | .ldMemVx x => Laws.EncodingRow.ldMemVx x
  | .ldVxMem x => Laws.EncodingRow.ldVxMem x

theorem decode_encode {i : Instr} (ok : i.wf = true) : decode (encode i) = some i := by
  obtain ⟨r, hr, hw, hi⟩ := exists_row_of_encode i ok
  rw [decode_of_hits hr hw, hi]

theorem decodeBytes_of_decode {w : Word} {i : Instr} (h : decode w = some i) (rest : List Byte) :
    decodeBytes (wordBytes w ++ rest) = .ok (i, rest) := by
  simp [wordBytes, decodeBytes, h]

theorem tableWord_toNat (w : Word) : tableWord 16 w.toNat = w := by
  rw [tableWord, Nat.mod_eq_of_lt w.isLt, BitVec.ofNat_toNat, BitVec.setWidth_eq]

theorem decodeTableWord_of_decode {w : Word} {i : Instr} (h : decode w = some i) :
    decodeTableWord 16 w.toNat = some i := by
  have hb : decodeBytes (wordBytes w) = .ok (i, []) := decodeBytes_of_decode h []
  simp [decodeTableWord, tableWord_toNat, hb]

/-- Settles O48: the instruction's word matches a row that builds the instruction again, and no other row; its bytes
and its number in the table are that word. -/
theorem decodeOfEncode : Obligations.DecodeOfEncode :=
  fun _ ok => ⟨decode_encode ok, decodeBytes_of_decode (decode_encode ok), decodeTableWord_of_decode (decode_encode ok)⟩

/-! ## What a word decodes to is well-formed (R68, R71) -/

theorem addrOperandOk_fieldNNN (w : Word) : addrOperandOk (fieldNNN w) = true :=
  decide_eq_true (Machine.low12_lt w)

/-- Only the rows of format ADDR build an instruction whose operand is checked, and they take it from the nnn field. -/
theorem opcodeRows_build_wf (w : Word) : ∀ r ∈ opcodeRows, (r.build w).wf = true := by
  simp [opcodeRows, rowsLow, rowsAlu, rowsHigh, rowsEF, rowAddr, rowXNN, rowXYS, rowXS, Instr.wf,
    addrOperandOk_fieldNNN]

theorem wf_of_decode {w : Word} {i : Instr} (h : decode w = some i) : i.wf = true := by
  obtain ⟨r, hr, -, rfl⟩ := exists_row_of_decode h
  exact opcodeRows_build_wf w r hr

/-- Settles O49: the row that matched built the instruction from the word's own fields, so the operand fits and no bit
is lost. -/
theorem encodeOfDecode : Obligations.EncodeOfDecode :=
  fun _ _ h => ⟨wf_of_decode h, encode_of_decode h⟩

end Sys2Proof

/-! # The unknown words (30_encoding.md R76, R77) -/

namespace Sys2Proof

/-! ## Each mask of the opcode map tests whole fields (R68, R69) -/

section
variable {w p : Word}

/-- Words that agree under a mask agree on every field that the mask covers. -/
theorem extractLsb'_eq_of_masked {m : Word} {start len : Nat} (hm : m.extractLsb' start len = BitVec.allOnes len)
    (h : w &&& m = p &&& m) : w.extractLsb' start len = p.extractLsb' start len := by
  have hext := congrArg (BitVec.extractLsb' start len) h
  simpa only [BitVec.extractLsb'_and, hm, BitVec.and_allOnes] using hext

theorem fieldOp_shifted (w : Word) : (fieldOp w).setWidth 16 <<< 12 = w &&& 0xF000#16 := by
  apply BitVec.eq_of_getLsbD_eq
  intro k hk
  interval_cases k <;> simp [fieldOp]

/-- Formats ADDR, XNN and XYN: the op field. -/
theorem and_0xF000_eq_iff (hp : p &&& 0xF000#16 = p) : w &&& 0xF000#16 = p ↔ fieldOp w = p.extractLsb' 12 4 := by
  constructor
  · intro h
    exact extractLsb'_eq_of_masked rfl (h.trans hp.symm)
  · intro hop
    rw [← hp, ← fieldOp_shifted, ← fieldOp_shifted, hop]
    rfl

/-- A mask that tests the op field and, by `m`, a field of `len` low bits. -/
theorem and_op_or_low_eq_iff {m : Word} {len : Nat} (hext : ∀ v : Word, (v.extractLsb' 0 len).setWidth 16 = v &&& m)
    (hop : (0xF000#16 ||| m).extractLsb' 12 4 = BitVec.allOnes 4)
    (hlow : (0xF000#16 ||| m).extractLsb' 0 len = BitVec.allOnes len) (hp : p &&& (0xF000#16 ||| m) = p) :
    w &&& (0xF000#16 ||| m) = p ↔
      fieldOp w = p.extractLsb' 12 4 ∧ w.extractLsb' 0 len = p.extractLsb' 0 len := by
  constructor
  · intro h
    have hmask := h.trans hp.symm
    exact ⟨extractLsb'_eq_of_masked hop hmask, extractLsb'_eq_of_masked hlow hmask⟩
  · rintro ⟨h, hl⟩
    have hsplit (v : Word) : v &&& (0xF000#16 ||| m) =
        (fieldOp v).setWidth 16 <<< 12 ||| (v.extractLsb' 0 len).setWidth 16 := by
      rw [fieldOp_shifted, hext, BitVec.and_or_distrib_left]
    rw [← hp, hsplit, hsplit, h, hl]
    rfl

/-- Format XYS: the op field and the low nibble. -/
theorem and_0xF00F_eq_iff (hp : p &&& 0xF00F#16 = p) :
    w &&& 0xF00F#16 = p ↔ fieldOp w = p.extractLsb' 12 4 ∧ fieldN w = p.extractLsb' 0 4 :=
  and_op_or_low_eq_iff fieldN_extended rfl rfl hp

/-- Format XS: the op field and the low byte. -/
theorem and_0xF0FF_eq_iff (hp : p &&& 0xF0FF#16 = p) :
    w &&& 0xF0FF#16 = p ↔ fieldOp w = p.extractLsb' 12 4 ∧ fieldNN w = p.extractLsb' 0 8 :=
  and_op_or_low_eq_iff fieldNN_extended rfl rfl hp

/-- A row without a field: the whole word, said with its op field as for the other rows. -/
theorem and_0xFFFF_eq_iff : w &&& 0xFFFF#16 = p ↔ fieldOp w = p.extractLsb' 12 4 ∧ w = p := by
  have hw : w &&& 0xFFFF#16 = w := BitVec.and_allOnes
  rw [hw]
  exact ⟨fun h => ⟨congrArg fieldOp h, h⟩, And.right⟩

end

/-! ## The words that the rows of each part of the map leave out (R77) -/

theorem OpcodeRow.hits_iff {r : OpcodeRow} {w : Word} : r.hits w = true ↔ w &&& r.mask = r.pattern :=
  beq_iff_eq

section
variable (w : Word)

theorem rowsLow_miss_iff : (∀ r ∈ rowsLow, ¬ r.hits w = true) ↔
    (fieldOp w = 0x0 → w ≠ 0x00E0 ∧ w ≠ 0x00EE) ∧ fieldOp w ∉ ([0x1, 0x2, 0x3, 0x4] : List Nibble) ∧
    (fieldOp w = 0x5 → fieldN w ≠ 0) ∧ fieldOp w ∉ ([0x6, 0x7] : List Nibble) := by
  simp [rowsLow, rowAddr, rowXNN, rowXYS, OpcodeRow.hits_iff, and_0xF000_eq_iff, and_0xF00F_eq_iff,
    and_0xFFFF_eq_iff, imp_and, and_assoc]

theorem rowsAlu_miss_iff : (∀ r ∈ rowsAlu, ¬ r.hits w = true) ↔
    (fieldOp w = 0x8 → fieldN w ∉ ([0x0, 0x1, 0x2, 0x3, 0x4, 0x5, 0x6, 0x7, 0xE] : List Nibble)) := by
  simp [rowsAlu, rowXYS, OpcodeRow.hits_iff, and_0xF00F_eq_iff, imp_and]

theorem rowsHigh_miss_iff : (∀ r ∈ rowsHigh, ¬ r.hits w = true) ↔
    (fieldOp w = 0x9 → fieldN w ≠ 0) ∧ fieldOp w ∉ ([0xA, 0xB, 0xC, 0xD] : List Nibble) := by
  simp [rowsHigh, rowAddr, rowXNN, rowXYS, OpcodeRow.hits_iff, and_0xF000_eq_iff, and_0xF00F_eq_iff]

theorem rowsEF_miss_iff : (∀ r ∈ rowsEF, ¬ r.hits w = true) ↔
    (fieldOp w = 0xE → fieldNN w ∉ ([0x9E, 0xA1] : List Byte)) ∧
    (fieldOp w = 0xF → fieldNN w ∉ ([0x07, 0x0A, 0x15, 0x18, 0x1E, 0x29, 0x33, 0x55, 0x65] : List Byte)) := by
  simp [rowsEF, rowXS, OpcodeRow.hits_iff, and_0xF0FF_eq_iff, imp_and, and_assoc]

end

/-- A space of the opcode map has unknown words, or else every word in it is one instruction's. -/
theorem op_space_cases : ∀ op : Nibble,
    (op = 0x0 ∨ op = 0x5 ∨ op = 0x8 ∨ op = 0x9 ∨ op = 0xE ∨ op = 0xF) ∨
    (¬ (op ∉ ([0x1, 0x2, 0x3, 0x4] : List Nibble) ∧ op ∉ ([0x6, 0x7] : List Nibble) ∧
      op ∉ ([0xA, 0xB, 0xC, 0xD] : List Nibble)) ∧
    op ≠ 0x0 ∧ op ≠ 0x5 ∧ op ≠ 0x8 ∧ op ≠ 0x9 ∧ op ≠ 0xE ∧ op ≠ 0xF) := by
  decide

/-- The low nibbles that family 8 leaves out (R73). -/
theorem alu_nibble_unassigned_iff : ∀ n : Nibble,
    n ∉ ([0x0, 0x1, 0x2, 0x3, 0x4, 0x5, 0x6, 0x7, 0xE] : List Nibble) ↔
    n ∈ ([0x8, 0x9, 0xA, 0xB, 0xC, 0xD, 0xF] : List Nibble) := by
  decide

/-- Settles O51: a word is unknown when every part of the map leaves it out; in each space of the op field the rows of
at most one part ask about the rest of the word. -/
theorem unknownWordsExactly : Obligations.UnknownWordsExactly := by
  intro w
  simp only [decode_eq_none_iff, opcodeRows, List.forall_mem_append, rowsLow_miss_iff, rowsAlu_miss_iff,
    rowsHigh_miss_iff, rowsEF_miss_iff, alu_nibble_unassigned_iff]
  obtain h | ⟨hassigned, hne⟩ := op_space_cases (fieldOp w)
  · obtain h | h | h | h | h | h := h <;> simp [h]
  · simp only [hne, false_and, or_self, iff_false]
    rintro ⟨⟨⟨⟨-, hlow, -, hlow'⟩, -⟩, -, hhigh⟩, -⟩
    exact hassigned ⟨hlow, hlow', hhigh⟩

/-! ## Sample words, and an unknown word at a step (R76) -/

/-- Settles O47: the round trip, at the instructions whose words these are. -/
theorem decodeSampleWords : Obligations.DecodeSampleWords :=
  ⟨decode_encode (i := .cls) rfl, decode_encode (i := .call 0x210) rfl, decode_encode (i := .subn 1 2) rfl,
    decode_encode (i := .rnd 3 0x0F) rfl, decode_encode (i := .drw 0 1 5) rfl, decode_encode (i := .ldBVx 0xA) rfl,
    decode_encode (i := .sknp 5) rfl⟩

/-- Settles O30: the step closes loading and takes the fault, which writes the status alone. -/
theorem unknownWordHalts : Obligations.UnknownWordHalts :=
  fun _ hr hn => Machine.step_of_unknown hr hn

end Sys2Proof

/-! # The cycle: what it fetches, what a step leaves by the status before it, and the halt (40_cycle.md) -/

namespace Sys2Proof.Machine

/-! ## What a step returns (R93) -/

theorem State.stepResult_of_running {s : State} (h : s.status = .running) : s.stepResult = .ok := by
  simp [State.stepResult, h]

theorem State.stepResult_of_awaitingKey {s : State} (h : s.status = .awaitingKey) : s.stepResult = .awaitingKey := by
  simp [State.stepResult, h]

theorem State.stepResult_of_halted {s : State} {r : FaultRecord} (h : s.status = .halted r) :
    s.stepResult = .fatal r := by
  simp [State.stepResult, h]

theorem transact_step_iff {s t : State} {r : Response} :
    transact .step s = .next (t, r) ↔ step s = .next t ∧ r = t.stepResult :=
  ⟨fun h => by simpa using transact_cases h, fun ⟨h, hr⟩ => hr ▸ transact_step_of_next h⟩

/-! ## A running step (R87, R89) -/

/-- A running step runs on, or waits at the FX0A it fetched, or takes a fault on the fetched word, and then has changed
nothing else but load_open. -/
theorem step_running_cases {s t : State} (hr : s.status = .running) (h : step s = .next t) :
    t.status = .running ∨
    (t.status = .awaitingKey ∧ ∃ x, decode s.fetchWord = some (.ldVxK x)) ∨
    ∃ kind, t = s.closeLoad.takeFault kind s.fetchWord := by
  cases hd : decode s.fetchWord with
  | none =>
    rw [step_of_unknown hr hd] at h
    exact .inr (.inr ⟨_, (Host.Outcome.next.inj h).symm⟩)
  | some i =>
    have hw := encode_of_decode hd
    rw [step_of_decode hr hd] at h
    obtain hst | ⟨x, rfl, rfl⟩ | ⟨-, -, -, rfl⟩ | ⟨-, -, rfl⟩ := exec_status_cases h
    · exact .inl (hst.trans hr)
    · exact .inr (.inl ⟨rfl, x, rfl⟩)
    · exact .inr (.inr ⟨.stackOverflow, hw ▸ rfl⟩)
    · exact .inr (.inr ⟨.stackUnderflow, hw ▸ rfl⟩)

/-- Settles O31: a running step that ends halted has taken a fault, which writes the status alone. -/
theorem faultUndoesTheStep : Obligations.FaultUndoesTheStep := by
  intro s t r hr h ht
  have hret : transact .step s = .next (t, .fatal r) :=
    transact_step_iff.mpr ⟨h, (State.stepResult_of_halted ht).symm⟩
  obtain hrun | ⟨hwait, -⟩ | ⟨kind, rfl⟩ := step_running_cases hr h
  · cases hrun.symm.trans ht
  · cases hwait.symm.trans ht
  · cases ht
    exact ⟨rfl, rfl, rfl, hret⟩

/-! ## A step while awaiting a key (R90) -/

/-- A wait step goes on waiting exactly while no key is fresh. -/
theorem State.waitStep_status_cases {s : State} (h : s.status = .awaitingKey) :
    (s.freshKeys = 0 ∧ s.waitStep.status = .awaitingKey) ∨ (s.freshKeys ≠ 0 ∧ s.waitStep.status = .running) := by
  obtain ⟨h0, e⟩ | ⟨d, hd, e⟩ := s.waitStep_cases
  · exact .inl ⟨h0, by rw [e]; exact h⟩
  · refine .inr ⟨fun h0 => ?_, by rw [e]⟩
    cases (lowestKey_none.mpr h0).symm.trans hd

/-- Settles O34: the step is one of the three forms, and its result is read off the status it leaves. -/
theorem stepResultsByStatus : Obligations.StepResultsByStatus := by
  intro s t r h
  obtain ⟨hstep, rfl⟩ := transact_step_iff.mp h
  refine ⟨fun hr => ?_, fun hw => ?_, fun rec hh => ?_⟩
  · obtain ht | ⟨ht, hx⟩ | ⟨kind, rfl⟩ := step_running_cases hr hstep
    · exact .inl ⟨State.stepResult_of_running ht, ht⟩
    · exact .inr (.inl ⟨State.stepResult_of_awaitingKey ht, ht, hx⟩)
    · exact .inr (.inr ⟨_, rfl, rfl⟩)
  · obtain rfl := Host.Outcome.next.inj ((step_of_awaitingKey hw).symm.trans hstep)
    obtain ⟨h0, ht⟩ | ⟨hne, ht⟩ := State.waitStep_status_cases (s := s.closeLoad) hw
    · exact .inl ⟨h0, State.stepResult_of_awaitingKey ht, ht⟩
    · exact .inr ⟨hne, State.stepResult_of_running ht, ht⟩
  · obtain rfl := Host.Outcome.next.inj ((step_of_halted hh).symm.trans hstep)
    exact ⟨State.stepResult_of_halted hh, hh⟩

/-! ## The halt (R83, 60_exceptions.md R144, R149) -/

theorem State.closeLoad_of_closed {s : State} (h : s.loadOpen = false) : s.closeLoad = s := by
  cases s; cases h; rfl

theorem State.load_status (s : State) (rom : List Byte) : (s.load rom).1.status = s.status := by
  obtain ⟨-, -, e⟩ | ⟨-, e⟩ := s.load_cases rom <;> rw [e]

theorem tick_frame (s : State) : onlyChanges [.dt, .st] s s.tick := by
  intro p hp; cases p <;> simp_all [agreeOn]

theorem setKeys_frame (s : State) (k : Word) : onlyChanges [.keys] s (s.setKeys k) := by
  intro p hp; cases p <;> simp_all [agreeOn]

/-- While halted every transaction answers, whatever sp is: no step gets as far as CALL or RET. -/
theorem transact_answers_of_halted (tr : Transaction) {s : State} {r : FaultRecord} (h : s.status = .halted r) :
    ∃ t a, transact tr s = .next (t, a) := by
  cases tr with
  | step => exact ⟨_, _, transact_step_of_next (step_of_halted h)⟩
  | stepAndTick => exact ⟨_, _, transact_stepAndTick_of_next (step_of_halted h)⟩
  | _ => exact ⟨_, _, rfl⟩

/-- No transaction but reset leaves the halt or changes its record. -/
theorem transact_keeps_halted {tr : Transaction} {s t : State} {a : Response} {r : FaultRecord}
    (hs : s.status = .halted r) (hne : tr ≠ .reset) (h : transact tr s = .next (t, a)) : t.status = .halted r := by
  obtain ⟨rfl, -, -⟩ | ⟨rom, -, e⟩ | ⟨-, hstep, -⟩ | ⟨-, rfl, -⟩ | ⟨k, -, rfl, -⟩ | ⟨-, u, hstep, rfl, -⟩ :=
    transact_cases h
  · exact absurd rfl hne
  · have hload := s.load_status rom
    rw [e] at hload
    exact hload.trans hs
  · cases (step_of_halted hs).symm.trans hstep
    exact hs
  · exact hs
  · exact hs
  · cases (step_of_halted hs).symm.trans hstep
    exact hs

/-- Settles O33: a halted step only closes loading, and of the other transactions reset alone writes the status. -/
theorem haltedStepReturnsRecord : Obligations.HaltedStepReturnsRecord := by
  intro s r hs
  have hret : s.closeLoad.stepResult = .fatal r := State.stepResult_of_halted hs
  refine ⟨step_of_halted hs, transact_step_iff.mpr ⟨step_of_halted hs, hret.symm⟩, fun tr hne => ?_,
    s.resetCore, rfl, s.resetCore_status⟩
  obtain ⟨t, a, h⟩ := transact_answers_of_halted tr hs
  exact ⟨t, a, h, transact_keeps_halted hs hne h⟩

/-- While halted with loading closed a step changes nothing at all. -/
theorem step_of_halted_closed {s : State} {r : FaultRecord} (hs : s.status = .halted r) (hl : s.loadOpen = false) :
    step s = .next s := by
  rw [step_of_halted hs, State.closeLoad_of_closed hl]

/-- Settles O35: with loading closed a load is refused and a halted step changes nothing, which leaves the tick and the
latch. -/
theorem onlyResetLeavesHalted : Obligations.OnlyResetLeavesHalted := by
  intro s t tr r rec hs hl hne h
  refine ⟨transact_keeps_halted hs hne h, ?_⟩
  have hstay := step_of_halted_closed hs hl
  have ticked : onlyChanges [.dt, .st, .keys] s s.tick := (tick_frame s).mono (by simp)
  obtain ⟨rfl, -, -⟩ | ⟨rom, -, e⟩ | ⟨-, hstep, -⟩ | ⟨-, rfl, -⟩ | ⟨k, -, rfl, -⟩ | ⟨-, u, hstep, rfl, -⟩ :=
    transact_cases h
  · exact absurd rfl hne
  · rw [load_of_closed_or_long (.inl hl)] at e
    cases e
    exact onlyChanges_refl _ s
  · cases hstay.symm.trans hstep
    exact onlyChanges_refl _ s
  · exact ticked
  · exact (setKeys_frame s k).mono (by simp)
  · cases hstay.symm.trans hstep
    exact ticked

/-! ## The fetch (R84, R91) -/

theorem State.fetchWord_toNat (s : State) :
    s.fetchWord.toNat = (s.mem.readAt s.pc.toNat).toNat * 256 + (s.mem.readAt (s.pc.toNat + 1)).toNat :=
  joinBytes_toNat _ _

/-- Settles O28: the fetch is big-endian, and the step closes loading and runs what it decoded. -/
theorem stepRunsDecoded : Obligations.StepRunsDecoded :=
  fun s _ hr => ⟨s.fetchWord_toNat, step_of_decode hr⟩

/-- A running step of 6XNN answers, and only advances pc. -/
theorem step_ldByte_pc {s : State} {x : Reg} {nn : Byte} (hr : s.status = .running)
    (hd : decode s.fetchWord = some (.ldByte x nn)) : ∃ t, step s = .next t ∧ t.pc = s.nextPc :=
  ⟨_, step_of_decode hr hd, rfl⟩

/-- Settles O29: the fetch masks both addresses, so 0xFFF + 1 reads byte 0, and the advance masks pc. -/
theorem fetchWraps : Obligations.FetchWraps := by
  intro s
  refine ⟨fun hpc => ⟨?_, fun x nn hr hd => ?_⟩, fun hpc => ⟨?_, fun x nn hr hd => ?_⟩⟩
  · have hwrap : s.mem.readAt (0xFFF + 1) = s.mem.readAt 0x000 := (s.mem.readAt_mod (0xFFF + 1)).symm
    have hword := s.fetchWord_toNat
    rw [hpc] at hword
    exact hwrap ▸ hword
  · obtain ⟨t, ht, htpc⟩ := step_ldByte_pc hr hd
    exact ⟨t, ht, by rw [htpc, State.nextPc, hpc]; decide⟩
  · have hword := s.fetchWord_toNat
    rw [hpc] at hword
    exact hword
  · obtain ⟨t, ht, htpc⟩ := step_ldByte_pc hr hd
    exact ⟨t, ht, by rw [htpc, State.nextPc, hpc]; decide⟩

end Sys2Proof.Machine

/-! # Control transfer: jumps, calls, returns and skips (41_control_flow.md) -/

namespace Sys2Proof

/-! ## The words of 30_encoding.md R69, written out by their fields -/

/-- A well-formed instruction's own word is its word in both directions. -/
theorem wordIs_of_encode {i : Instr} {w : Word} (ok : i.wf = true) (h : encode i = w) : Machine.wordIs i w :=
  ⟨h, h ▸ decode_encode ok⟩

section
variable (op x y n : Nibble)

/-- An operand that fits its 12 bits stands in the word as it is. -/
theorem packAddr_of_lt {nnn : Word} (h : nnn.toNat < 0x1000) : packAddr op nnn = op.setWidth 16 <<< 12 ||| nnn :=
  congrArg (op.setWidth 16 <<< 12 ||| ·) (Machine.low12_of_lt h)

/-- Format XYS: the op field and the low nibble are the row's pattern. -/
theorem packXYN_eq_pattern_or :
    packXYN op x y n = (op.setWidth 16 <<< 12 ||| n.setWidth 16) ||| Machine.atX x ||| Machine.atY y := by
  rw [packXYN, Machine.atX, Machine.atY]
  ac_rfl

@[simp] theorem fieldOp_packXYN : fieldOp (packXYN op x y n) = op := by
  apply BitVec.eq_of_getLsbD_eq
  intro k hk
  interval_cases k <;> simp [fieldOp, packXYN]

/-- Families 5 and 9 have no instruction with a nonzero low nibble (R77). -/
theorem decode_packXYN_eq_none (hop : op = 0x5 ∨ op = 0x9) (hn : n ≠ 0) : decode (packXYN op x y n) = none := by
  have hN : fieldN (packXYN op x y n) ≠ 0 := by rwa [fieldN_packXYN]
  refine (unknownWordsExactly _).mpr ?_
  obtain rfl | rfl := hop
  · exact .inr (.inl ⟨fieldOp_packXYN .., hN⟩)
  · exact .inr (.inr (.inr (.inl ⟨fieldOp_packXYN .., hN⟩)))

end

end Sys2Proof

namespace Sys2Proof.Machine

/-! ## Jumps (R95, R101) -/

/-- Settles O2: the address fits pc's 12 bits, so the masked write stores it as it is. -/
theorem jpWritesPc : Obligations.JpWritesPc := fun nnn s h =>
  ⟨wordIs_of_encode (decide_eq_true h) (packAddr_of_lt 0x1 h),
    s.advance.setPc nnn, rfl, low12_of_lt h, exec_frame (i := .jp nnn) rfl⟩

theorem zext16_toNat (b : Byte) : (zext16 b).toNat = b.toNat :=
  BitVec.toNat_setWidth_of_le (by decide)

/-- Settles O3: the sum stays below 2^16, so only the mask of pc reduces it. -/
theorem jpV0AddsV0 : Obligations.JpV0AddsV0 := by
  intro nnn s h
  refine ⟨wordIs_of_encode (decide_eq_true h) (packAddr_of_lt 0xB h), s.advance.setPc (nnn + zext16 (s.readV 0)), rfl,
    ?_, exec_frame (i := .jpV0 nnn) rfl⟩
  rw [State.setPc_pc, low12_toNat, BitVec.toNat_add, zext16_toNat]
  omega

/-! ## Skips (R97 to R100) -/

/-- Two strides of 2 from the fetch address are one of 4 (40_cycle.md R85). -/
theorem State.advance_advance_pc (s : State) : s.advance.advance.pc = s.skipPc := by
  rw [State.advance_pc, State.advance_pc, low12_add_low12, BitVec.add_assoc]
  rfl

/-- The advance and then the skip under a test of the condition. -/
theorem advance_skipIf_skipsIff (s : State) {b : Bool} {c : Prop} [Decidable c] (hb : b = true ↔ c) :
    skipsIff c s (s.advance.skipIf b) := by
  refine ⟨?_, advance_skipIf_frame s b⟩
  by_cases hc : c
  · rw [hb.mpr hc, if_pos hc]
    exact s.advance_advance_pc
  · rw [Bool.eq_false_iff.mpr (mt hb.mp hc), if_neg hc]
    rfl

/-- Settles O5: both are the skip after the advance, under the two outcomes of one comparison. -/
theorem skipOnByte : Obligations.SkipOnByte := fun _ _ s =>
  ⟨wordIs_of_encode rfl rfl, wordIs_of_encode rfl rfl, ⟨_, rfl, advance_skipIf_skipsIff s beq_iff_eq⟩,
    ⟨_, rfl, advance_skipIf_skipsIff s bne_iff_ne⟩⟩

/-- Settles O6: the skips as for a byte; a nonzero low nibble in family 5 or 9 is one of the unknown words. -/
theorem skipOnRegisters : Obligations.SkipOnRegisters := fun x y s =>
  ⟨wordIs_of_encode rfl (packXYN_eq_pattern_or 0x5 x y 0), wordIs_of_encode rfl (packXYN_eq_pattern_or 0x9 x y 0),
    fun n hn => ⟨decode_packXYN_eq_none 0x5 x y n (.inl rfl) hn, decode_packXYN_eq_none 0x9 x y n (.inr rfl) hn⟩,
    ⟨_, rfl, advance_skipIf_skipsIff s beq_iff_eq⟩, ⟨_, rfl, advance_skipIf_skipsIff s bne_iff_ne⟩⟩

/-! ## Calls and returns (R94, R96) -/

/-- RET over `k + 1` occupied entries pops entry `k`. -/
theorem exec_ret_pops {s : State} {k : Fin 16} (hk : s.sp.toNat = k.val + 1) :
    ∃ t, exec .ret s = .next t ∧ t.sp.toNat = k.val ∧ t.pc = s.stack[k] &&& 0x0FFF ∧ onlyChanges [.sp, .pc] s t := by
  have hne : s.sp ≠ 0 := by
    intro h0
    simp [h0] at hk
  have hidx : s.sp.toNat - 1 = k.val := by omega
  have hlt : s.sp.toNat - 1 < 16 := by omega
  refine ⟨_, execRet_of_pop hne hlt, ?_, ?_, ((advance_frame s).trans (popTo_frame _ _)).mono (by decide)⟩
  · rw [State.popTo_sp, State.advance_sp, sp_sub_one_toNat hne, hidx]
  · simp only [State.popTo_pc, hidx]
    rfl

/-- CALL over `k` occupied entries, `k` below 16, writes entry `k`. -/
theorem exec_call_pushes (nnn : Word) {s : State} {k : Fin 16} (hk : s.sp.toNat = k.val) :
    ∃ t, exec (.call nnn) s = .next t ∧ t.stack[k] = s.nextPc ∧ (∀ j : Fin 16, j ≠ k → t.stack[j] = s.stack[j]) ∧
      t.sp.toNat = k.val + 1 ∧ t.pc = low12 nnn ∧ onlyChanges [.stack, .sp, .pc] s t := by
  have hlt : s.sp.toNat < 16 := by omega
  obtain ⟨h16, -⟩ | ⟨-, e⟩ | ⟨h16, -⟩ := execCall_cases nnn s
  · simp [h16] at hlt
  · refine ⟨_, e, ?_, fun j hj => ?_, ?_, rfl,
      (((advance_frame s).trans (push_frame _)).trans (setPc_frame _ nnn)).mono (by decide)⟩
    · simp [hk, State.nextPc, low12]
    · have : k.val ≠ j.val := fun h => hj (Fin.ext h.symm)
      simp [hk, this]
    · exact (sp_add_one_toNat hlt).trans (by rw [hk])
  · omega

/-- Settles O1: an empty stack faults with the state otherwise as it was; above it RET pops. -/
theorem retPopsOrUnderflows : Obligations.RetPopsOrUnderflows :=
  fun _ => ⟨wordIs_of_encode rfl rfl, fun h0 => if_pos h0, fun _ hk => exec_ret_pops hk⟩

/-- Settles O4: a full stack faults with the state otherwise as it was; below it CALL pushes and jumps. -/
theorem callPushesOrOverflows : Obligations.CallPushesOrOverflows := by
  intro nnn s h
  have hword : encode (.call nnn) = 0x2000 ||| nnn := packAddr_of_lt 0x2 h
  refine ⟨wordIs_of_encode (decide_eq_true h) hword, fun h16 => ?_, fun k hk => ?_⟩
  · rw [← hword]
    exact if_pos h16
  · have hpush := exec_call_pushes nnn hk
    rwa [low12_of_lt h] at hpush

/-- Settles O7: RET pops the entry that CALL pushed, the advanced pc, which is a 12-bit value already. -/
theorem callThenRetComesBack : Obligations.CallThenRetComesBack := by
  intro nnn s hsp
  obtain ⟨t, hcall, htop, -, htsp, -, -⟩ := exec_call_pushes nnn (k := ⟨s.sp.toNat, hsp⟩) rfl
  obtain ⟨u, hret, husp, hupc, -⟩ := exec_ret_pops htsp
  refine ⟨t, u, hcall, hret, ?_, BitVec.eq_of_toNat_eq husp⟩
  rw [hupc, htop]
  exact low12_low12 _

end Sys2Proof.Machine

/-! # Register loads and the ALU (42_alu.md R104 to R114) -/

namespace Sys2Proof.Machine

/-! ## The words of family 8 (R72) -/

/-- In format XYS with op 8, an instruction's word is its row's pattern with the two register fields. -/
theorem wordIs_family8 {i : Instr} (x y n : Nibble) (ok : i.wf = true) (h : encode i = packXYN 0x8 x y n) :
    wordIs i ((0x8000 ||| n.setWidth 16) ||| atX x ||| atY y) :=
  wordIs_of_encode ok (h.trans (packXYN_eq_pattern_or 0x8 x y n))

/-! ## The two forms of a next state: a plain result, and a result with its flag (R103) -/

/-- The advance and then one register write. -/
theorem advance_writeV_writesOnly (s : State) (x : Reg) (b : Byte) : writesOnly x b s (s.advance.writeV x b) :=
  ⟨fun r => s.advance.readV_writeV x r b, rfl, (advance_frame s).trans (writeV_frame _ x b)⟩

theorem flagByte_toNat {b : Bool} {c : Prop} [Decidable c] (hb : b = true ↔ c) :
    (flagByte b).toNat = if c then 1 else 0 := by
  by_cases hc : c
  · rw [hb.mpr hc, if_pos hc]
    rfl
  · rw [Bool.eq_false_iff.mpr (mt hb.mp hc), if_neg hc]
    rfl

/-- The advance, the result and then the flag, with the byte's value and the flag's meaning in Nat arithmetic. -/
theorem advance_writeVThenFlag_writesResultThenFlag (s : State) (x : Reg) {b : Byte} {c : Bool} {result : Nat}
    {flag : Prop} [Decidable flag] (hb : b.toNat = result) (hc : c = true ↔ flag) :
    writesResultThenFlag x result flag s (s.advance.writeVThenFlag x b c) := by
  refine ⟨fun r => ?_, rfl, (advance_frame s).trans (writeVThenFlag_frame _ x b c)⟩
  rw [State.readV_writeVThenFlag, State.advance_readV, apply_ite BitVec.toNat, apply_ite BitVec.toNat,
    flagByte_toNat hc, hb]
  rfl

/-! ## The results and the flags in Nat arithmetic -/

theorem byte_add_eq_ofNat (a b : Byte) : a + b = BitVec.ofNat 8 ((a.toNat + b.toNat) % 256) := by
  apply BitVec.eq_of_toNat_eq
  rw [BitVec.toNat_add, BitVec.toNat_ofNat, Nat.mod_mod]

/-- A borrow adds 256 to the minuend. -/
theorem byte_sub_toNat (a b : Byte) : (a - b).toNat = (a.toNat + 256 - b.toNat) % 256 := by
  rw [BitVec.toNat_sub]
  omega

theorem byte_shr_toNat (a : Byte) : (a >>> 1).toNat = a.toNat / 2 :=
  BitVec.toNat_ushiftRight ..

theorem byte_shl_toNat (a : Byte) : (a <<< 1).toNat = 2 * a.toNat % 256 := by
  rw [BitVec.toNat_shiftLeft, Nat.shiftLeft_eq, Nat.mul_comm]

theorem carryFlag_iff {a b : Byte} : carryFlag a b = true ↔ a.toNat + b.toNat > 255 := decide_eq_true_iff

theorem notBorrowFlag_iff {a b : Byte} : notBorrowFlag a b = true ↔ a.toNat ≥ b.toNat := decide_eq_true_iff

/-- Bit 0 is the remainder that halving drops. -/
theorem shrFlag_iff {a : Byte} : shrFlag a = true ↔ a.toNat % 2 = 1 := by
  rw [shrFlag, BitVec.getLsbD, Nat.testBit_zero, decide_eq_true_iff]

/-- Bit 7 is the quotient by 128, as a byte is below 256. -/
theorem shlFlag_iff {a : Byte} : shlFlag a = true ↔ a.toNat / 128 = 1 := by
  rw [shlFlag, BitVec.getLsbD, Nat.testBit_eq_decide_div_mod_eq, decide_eq_true_iff]
  have := a.isLt
  omega

/-! ## Loads, additions and logic without a flag (R104 to R109) -/

/-- Settles O9: each is the advance and one register write. -/
theorem loadRegister : Obligations.LoadRegister := fun x y _ s =>
  ⟨wordIs_of_encode rfl rfl, wordIs_family8 x y 0x0 rfl rfl,
    ⟨_, rfl, advance_writeV_writesOnly s x _⟩, ⟨_, rfl, advance_writeV_writesOnly s x _⟩⟩

/-- Settles O10: the byte sum is the sum modulo 256, and it is the only register written. -/
theorem addByteWraps : Obligations.AddByteWraps := by
  intro x nn s
  refine ⟨wordIs_of_encode rfl rfl, _, rfl, ?_⟩
  rw [← byte_add_eq_ofNat]
  exact advance_writeV_writesOnly s x _

/-- Settles O11: each is the advance and one register write, so VF changes only as the destination. -/
theorem logicWritesOnlyVx : Obligations.LogicWritesOnlyVx := fun x y s =>
  ⟨wordIs_family8 x y 0x1 rfl rfl, wordIs_family8 x y 0x2 rfl rfl, wordIs_family8 x y 0x3 rfl rfl,
    ⟨_, rfl, advance_writeV_writesOnly s x _⟩, ⟨_, rfl, advance_writeV_writesOnly s x _⟩,
    ⟨_, rfl, advance_writeV_writesOnly s x _⟩⟩

/-! ## The operations with a flag (R110 to R114) -/

/-- Settles O12: the byte sum is reduced modulo 256, and the flag is the carry out of it. -/
theorem addRegCarry : Obligations.AddRegCarry := fun x y s =>
  ⟨wordIs_family8 x y 0x4 rfl rfl, _, rfl,
    advance_writeVThenFlag_writesResultThenFlag s x (BitVec.toNat_add ..) carryFlag_iff⟩

/-- Settles O13: the two subtractions are one byte subtraction with the operands exchanged. -/
theorem subtractNotBorrow : Obligations.SubtractNotBorrow := fun x y s =>
  ⟨wordIs_family8 x y 0x5 rfl rfl, wordIs_family8 x y 0x7 rfl rfl,
    ⟨_, rfl, advance_writeVThenFlag_writesResultThenFlag s x (byte_sub_toNat ..) notBorrowFlag_iff⟩,
    ⟨_, rfl, advance_writeVThenFlag_writesResultThenFlag s x (byte_sub_toNat ..) notBorrowFlag_iff⟩⟩

/-- Settles O14: the shifts halve and double VX, and the flag is the bit that the result has no room for. -/
theorem shiftByOne : Obligations.ShiftByOne := fun x y s =>
  ⟨wordIs_family8 x y 0x6 rfl rfl, wordIs_family8 x y 0xE rfl rfl,
    ⟨_, rfl, advance_writeVThenFlag_writesResultThenFlag s x (byte_shr_toNat _) shrFlag_iff⟩,
    ⟨_, rfl, advance_writeVThenFlag_writesResultThenFlag s x (byte_shl_toNat _) shlFlag_iff⟩⟩

end Sys2Proof.Machine

/-! # The index register and memory transfer (43_index_memory.md) -/

namespace Sys2Proof

/-! ## The words of family F (R72) -/

/-- Format XS: the op field and the low byte are the row's pattern. -/
theorem packXNN_eq_pattern_or (op : Nibble) (x : Reg) (nn : Byte) :
    packXNN op x nn = (op.setWidth 16 <<< 12 ||| nn.setWidth 16) ||| Machine.atX x := by
  rw [packXNN, Machine.atX]
  ac_rfl

end Sys2Proof

namespace Sys2Proof.Machine

/-- In family F, an instruction's word is its row's pattern with the register field. -/
theorem wordIs_familyF {i : Instr} (x : Reg) (nn : Byte) (ok : i.wf = true) (h : encode i = packXNN 0xF x nn) :
    wordIs i ((0xF000 ||| nn.setWidth 16) ||| atX x) :=
  wordIs_of_encode ok (h.trans (packXNN_eq_pattern_or 0xF x nn))

/-! ## The writers of I (R117 to R119) -/

theorem lowNibble_toNat (b : Byte) : (lowNibble b).toNat = b.toNat % 16 :=
  BitVec.extractLsb'_toNat ..

/-- I plus a byte under the mask: 4096 divides 2^16, so a sum that wraps as a word loses nothing. -/
theorem low12_add_zext16_toNat (w : Word) (b : Byte) :
    (low12 (w + zext16 b)).toNat = (w.toNat + b.toNat) % 4096 := by
  rw [low12_toNat, BitVec.toNat_add, zext16_toNat]
  omega

/-- The glyph address under the mask, likewise. -/
theorem low12_glyphAddr_toNat (c : Config) (b : Byte) :
    (low12 (glyphAddr c (lowNibble b))).toNat = (c.fontBase.toNat + 5 * (b.toNat % 16)) % 4096 := by
  have h5 : (5 : Word).toNat = 5 := rfl
  rw [low12_toNat, glyphAddr, BitVec.toNat_add, BitVec.toNat_mul, h5, BitVec.toNat_setWidth_of_le (by decide),
    lowNibble_toNat]
  omega

/-- Settles O16: each is the advance and one masked write of I; ANNN's address fits I's 12 bits as it is. -/
theorem indexWriters : Obligations.IndexWriters := fun nnn x _ h =>
  ⟨wordIs_of_encode (decide_eq_true h) (packAddr_of_lt 0xA h), wordIs_familyF x 0x1E rfl rfl,
    wordIs_familyF x 0x29 rfl rfl,
    ⟨_, rfl, low12_of_lt h, rfl, exec_frame (i := .ldI nnn) rfl⟩,
    ⟨_, rfl, low12_add_zext16_toNat .., rfl, exec_frame (i := .addIVx x) rfl⟩,
    ⟨_, rfl, low12_glyphAddr_toNat .., rfl, exec_frame (i := .ldFVx x) rfl⟩⟩

/-! ## The transfers (R120 to R122) -/

theorem bcdDigits_length (b : Byte) : (bcdDigits b).length = 3 := rfl

/-- Settles O17: the three digits, each below 256, are read back from the run of three stores, which leaves the other
bytes alone. -/
theorem bcdStoresThreeDigits : Obligations.BcdStoresThreeDigits := by
  intro x s hm
  have hbyte := (s.readV x).isLt
  have hfit : (bcdDigits (s.readV x)).length ≤ memSize := by
    rw [bcdDigits_length]
    decide
  have stored (k : Fin 3) := Memory.readAt_writeBytes_inside hm s.i.toNat (bcdDigits (s.readV x)) hfit k k.isLt
  have digit {d : Nat} (hd : d < 256) : (BitVec.ofNat 8 d).toNat = d := Nat.mod_eq_of_lt hd
  refine ⟨wordIs_familyF x 0x33 rfl rfl, _, rfl, ?_, ?_, ?_,
    Memory.readAt_writeBytes_outside hm _ (bcdDigits (s.readV x)), rfl, exec_frame (i := .ldBVx x) rfl⟩
  · exact (congrArg BitVec.toNat (stored 0)).trans (digit (by omega))
  · exact (congrArg BitVec.toNat (stored 1)).trans (digit (by omega))
  · exact (congrArg BitVec.toNat (stored 2)).trans (digit (by omega))

/-- Settles O18: V0..VX are read back from the run of x + 1 stores, which leaves the other bytes alone. -/
theorem storeRegisters : Obligations.StoreRegisters := by
  intro x s hm
  refine ⟨wordIs_familyF x 0x55 rfl rfl, _, rfl, fun _ => readAt_storeBytes_regsUpTo (u := s.advance) hm _,
    fun a ha => Memory.readAt_writeBytes_outside hm _ _ a fun k hk => ha k ?_, rfl, exec_frame (i := .ldMemVx x) rfl⟩
  rw [State.regsUpTo_length] at hk
  exact Nat.le_of_lt_succ hk

/-- Settles O19: the load reads the registers up to x from memory and leaves the rest. -/
theorem loadRegisters : Obligations.LoadRegisters := by
  intro x s
  refine ⟨wordIs_familyF x 0x65 rfl rfl, _, rfl, fun k => ?_, rfl, exec_frame (i := .ldVxMem x) rfl⟩
  exact (loadRegs_getElem ..).trans (if_congr Nat.lt_succ_iff rfl rfl)

end Sys2Proof.Machine

/-! # Display (44_display.md) -/

namespace Sys2Proof.Machine

/-! ## The clear (R123) -/

/-- Settles O21: the advance and a blank framebuffer. -/
theorem clsClearsEveryPixel : Obligations.ClsClearsEveryPixel := fun _ =>
  ⟨wordIs_of_encode rfl rfl, _, rfl, Framebuffer.pixelAt_blank, rfl, exec_frame (i := .cls) rfl⟩

/-! ## How far past the start of the sprite a pixel lies (R39, R125) -/

/-- The distance from coordinate `start` on to `p`, around a buffer of `size`. -/
def wrapOffset (size start p : Nat) : Nat := (p % size + size - start % size) % size

theorem wrapOffset_lt {size : Nat} (hsize : 0 < size) (start p : Nat) : wrapOffset size start p < size :=
  Nat.mod_lt _ hsize

@[simp] theorem wrapOffset_mod (size start p : Nat) : wrapOffset size (start % size) p = wrapOffset size start p := by
  rw [wrapOffset, Nat.mod_mod, wrapOffset]

theorem add_wrapOffset_modEq {size : Nat} (hsize : 0 < size) (start p : Nat) :
    start + wrapOffset size start p ≡ p [MOD size] := by
  have hle : start % size ≤ p % size + size := (Nat.mod_lt start hsize).le.trans (Nat.le_add_left _ _)
  calc start + wrapOffset size start p
      ≡ start % size + (p % size + size - start % size) [MOD size] :=
        (Nat.mod_modEq start size).symm.add (Nat.mod_modEq _ size)
    _ = p % size + size := Nat.add_sub_cancel' hle
    _ ≡ p [MOD size] := (Nat.add_mod_right _ _).trans (Nat.mod_mod _ _)

/-- The pixel at offset `k` is the one that lies `k` past the start, modulo the buffer. -/
theorem wrapOffset_eq_iff {size k : Nat} (hk : k < size) (start p : Nat) :
    wrapOffset size start p = k ↔ p % size = (start + k) % size := by
  have hsize : 0 < size := Nat.zero_lt_of_lt hk
  have hp := add_wrapOffset_modEq hsize start p
  constructor
  · rintro rfl
    exact hp.symm
  · intro h
    exact (Nat.ModEq.add_left_cancel' start (hp.trans h)).eq_of_lt_of_lt (wrapOffset_lt hsize start p) hk

/-- From one row further down, every row is one nearer, but for the row left behind, which is now the last. -/
theorem wrapOffset_succ {size : Nat} (hsize : 0 < size) (start p : Nat) :
    wrapOffset size start p = wrapOffset size (start + 1) p + 1 ∨
    (wrapOffset size start p = 0 ∧ wrapOffset size (start + 1) p + 1 = size) := by
  have hp := (wrapOffset_eq_iff (wrapOffset_lt hsize (start + 1) p) (start + 1) p).mp rfl
  rw [Nat.add_assoc, Nat.add_comm 1] at hp
  by_cases h : wrapOffset size (start + 1) p + 1 < size
  · exact .inl ((wrapOffset_eq_iff h start p).mpr hp)
  · have hlast : wrapOffset size (start + 1) p + 1 = size :=
      Nat.le_antisymm (wrapOffset_lt hsize _ _) (Nat.le_of_not_lt h)
    rw [hlast, Nat.add_mod_right] at hp
    exact .inr ⟨(wrapOffset_eq_iff hsize start p).mpr hp, hlast⟩

/-! ## What a part of the pixel loop does (R124, R126) -/

/-- From `acc` to `res` the bits that land on the pixels of `cover` have been drawn, each pixel at most once: these
pixels are flipped, and a collision has occurred if one had before or if one of them was lit. -/
structure Draws (cover : Nat → Nat → Bool) (acc res : Framebuffer × Bool) : Prop where
  pixel : ∀ px py, res.1.pixelAt px py = (acc.1.pixelAt px py ^^ cover px py)
  hit : res.2 = true ↔ acc.2 = true ∨ ∃ px py, cover px py = true ∧ acc.1.pixelAt px py = true

theorem Draws.refl {cover : Nat → Nat → Bool} (hnone : ∀ px py, cover px py = false) (acc : Framebuffer × Bool) :
    Draws cover acc acc where
  pixel px py := by simp [hnone]
  hit := by simp [hnone]

/-- Two parts that land on different pixels are one: the second finds its own pixels as they were before the first. -/
theorem Draws.trans {c d cover : Nat → Nat → Bool} {acc mid res : Framebuffer × Bool} (h : Draws c acc mid)
    (h' : Draws d mid res) (hdisj : ∀ px py, c px py = true → d px py = false)
    (hcover : ∀ px py, cover px py = (c px py || d px py)) : Draws cover acc res where
  pixel px py := by
    have := hdisj px py
    rw [h'.pixel, h.pixel, hcover]
    cases hc : c px py <;> simp_all
  hit := by
    have hmid (px py : Nat) : d px py = true ∧ mid.1.pixelAt px py = true ↔
        d px py = true ∧ acc.1.pixelAt px py = true := by
      rw [h.pixel]
      refine and_congr_right fun hd => ?_
      cases hc : c px py
      · simp
      · simp [hdisj px py hc] at hd
    simp only [h'.hit, h.hit, hmid, hcover, Bool.or_eq_true, or_and_right, exists_or, or_assoc]

/-- The bit of the sprite row `b`, drawn from column `x0` of row `y0` on, that lands on a pixel from one of the column
offsets `cols`. -/
def rowLandsOn (x0 y0 : Nat) (b : Byte) (cols : List Nat) (px py : Nat) : Bool :=
  decide (wrapOffset 32 y0 py = 0 ∧ wrapOffset 64 x0 px ∈ cols) && bitAt b (wrapOffset 64 x0 px)

/-- The bit of the sprite rows `bs`, drawn from column `x0` of row `y0` on, that lands on a pixel; past the last row no
bit is set. -/
def spriteLandsOn (x0 y0 : Nat) (bs : List Byte) (px py : Nat) : Bool :=
  decide (wrapOffset 64 x0 px < 8) && bitAt (bs.getD (wrapOffset 32 y0 py) 0#8) (wrapOffset 64 x0 px)

@[simp] theorem bitAt_zero (c : Nat) : bitAt 0#8 c = false := by simp [bitAt]

/-- One column offset lands on one pixel. -/
theorem rowLandsOn_singleton {c : Nat} (hc : c < 64) (x0 y0 : Nat) (b : Byte) (px py : Nat) :
    rowLandsOn x0 y0 b [c] px py = (decide (px % 64 = (x0 + c) % 64 ∧ py % 32 = y0 % 32) && bitAt b c) := by
  have hx := wrapOffset_eq_iff hc x0 px
  have hy := wrapOffset_eq_iff (by decide : 0 < 32) y0 py
  rw [Nat.add_zero] at hy
  by_cases h : wrapOffset 64 x0 px = c
  · simp [rowLandsOn, hx.mp h, hy, h]
  · simp [rowLandsOn, mt hx.mpr h, h]

theorem drawPixel_draws {c : Nat} (hc : c < 64) (x0 y0 : Nat) (b : Byte) (acc : Framebuffer × Bool) :
    Draws (rowLandsOn x0 y0 b [c]) acc (drawPixel x0 y0 b acc c) := by
  obtain ⟨hb, hfb, hhit⟩ | ⟨hb, he⟩ := drawPixel_cases x0 y0 b acc c
  · have hlands (px py : Nat) := rowLandsOn_singleton hc x0 y0 b px py
    simp only [hb, Bool.and_true] at hlands
    refine ⟨fun px py => ?_, ?_⟩
    · rw [hfb, Framebuffer.pixelAt_flip, hlands]
      split_ifs with hp <;> simp [hp]
    · rw [hhit, Bool.or_eq_true]
      refine or_congr_right ⟨fun h => ⟨x0 + c, y0, by simp [hlands], h⟩, ?_⟩
      rintro ⟨px, py, hl, h⟩
      obtain ⟨hx, hy⟩ := of_decide_eq_true ((hlands px py).symm.trans hl)
      rwa [← Framebuffer.pixelAt_mod, hx, hy, Framebuffer.pixelAt_mod] at h
  · rw [he]
    exact Draws.refl (fun px py => by rw [rowLandsOn_singleton hc, hb, Bool.and_false]) acc

/-- The loop over column offsets, each below the width of the framebuffer and no two alike. -/
theorem foldl_drawPixel_draws {cols : List Nat} (hlt : ∀ c ∈ cols, c < 64) (hnodup : cols.Nodup) (x0 y0 : Nat)
    (b : Byte) (acc : Framebuffer × Bool) :
    Draws (rowLandsOn x0 y0 b cols) acc (cols.foldl (drawPixel x0 y0 b) acc) := by
  induction cols generalizing acc with
  | nil => exact Draws.refl (fun px py => by simp [rowLandsOn]) acc
  | cons c cols ih =>
    obtain ⟨hc, hcols⟩ := List.forall_mem_cons.mp hlt
    obtain ⟨hnotin, hnodup⟩ := List.nodup_cons.mp hnodup
    refine (drawPixel_draws hc x0 y0 b acc).trans (ih hcols hnodup _) (fun px py h => ?_) (fun px py => ?_)
    · simp only [rowLandsOn, List.mem_singleton, Bool.and_eq_true, decide_eq_true_eq] at h
      obtain ⟨⟨-, rfl⟩, -⟩ := h
      simp [rowLandsOn, hnotin]
    · simp only [rowLandsOn, List.mem_cons, List.not_mem_nil, or_false, and_or_left, Bool.decide_or,
        Bool.and_or_distrib_right]

theorem drawRow_draws (x0 y0 : Nat) (b : Byte) (acc : Framebuffer × Bool) :
    Draws (rowLandsOn x0 y0 b (List.range 8)) acc (drawRow x0 y0 b acc) :=
  foldl_drawPixel_draws (by decide) List.nodup_range x0 y0 b acc

/-- The first row apart from the rest, which start one row further down: there are too few of them to come round to the
first row again. -/
theorem spriteLandsOn_cons {b : Byte} {bs : List Byte} (hlen : bs.length < 32) (x0 y0 px py : Nat) :
    (rowLandsOn x0 y0 b (List.range 8) px py = false ∧
      spriteLandsOn x0 y0 (b :: bs) px py = spriteLandsOn x0 (y0 + 1) bs px py) ∨
    (spriteLandsOn x0 (y0 + 1) bs px py = false ∧
      spriteLandsOn x0 y0 (b :: bs) px py = rowLandsOn x0 y0 b (List.range 8) px py) := by
  obtain hr | ⟨hr, hlast⟩ := wrapOffset_succ (by decide : 0 < 32) y0 py
  · exact .inl ⟨by simp [rowLandsOn, hr], by simp [spriteLandsOn, hr]⟩
  · have hpast : bs.getD (wrapOffset 32 (y0 + 1) py) 0#8 = 0#8 := List.getD_eq_default _ _ (by omega)
    exact .inr ⟨by rw [spriteLandsOn, hpast, bitAt_zero, Bool.and_false], by simp [rowLandsOn, spriteLandsOn, hr]⟩

theorem drawRows_draws {bs : List Byte} (hlen : bs.length ≤ 32) (x0 y0 : Nat) (acc : Framebuffer × Bool) :
    Draws (spriteLandsOn x0 y0 bs) acc (drawRows x0 y0 bs acc) := by
  induction bs generalizing y0 acc with
  | nil => exact Draws.refl (fun px py => by simp [spriteLandsOn]) acc
  | cons b bs ih =>
    have hrest : bs.length < 32 := hlen
    refine (drawRow_draws x0 y0 b acc).trans (ih hrest.le (y0 + 1) _) (fun px py h => ?_) (fun px py => ?_)
    · obtain ⟨hrow, -⟩ | ⟨hsprite, -⟩ := spriteLandsOn_cons (b := b) hrest x0 y0 px py
      · exact absurd (hrow.symm.trans h) Bool.false_ne_true
      · exact hsprite
    · obtain ⟨h0, h⟩ | ⟨h0, h⟩ := spriteLandsOn_cons (b := b) hrest x0 y0 px py <;> simp [h0, h]

/-! ## DXYN as a whole (R124 to R127) -/

theorem State.spriteCovers_eq (s : State) (x y : Reg) (n : Nibble) (px py : Nat) : s.spriteCovers x y n px py =
    (decide (wrapOffset 32 (s.readV y).toNat py < n.toNat) && decide (wrapOffset 64 (s.readV x).toNat px < 8) &&
      bitAt (s.mem.readAt (s.i.toNat + wrapOffset 32 (s.readV y).toNat py)) (wrapOffset 64 (s.readV x).toNat px)) :=
  rfl

/-- The bytes that DXYN reads are the rows of the sprite. -/
theorem spriteLandsOn_spriteBytes (s : State) (x y : Reg) (n : Nibble) (px py : Nat) :
    spriteLandsOn ((s.readV x).toNat % 64) ((s.readV y).toNat % 32) (s.spriteBytes n) px py =
      s.spriteCovers x y n px py := by
  rw [State.spriteCovers_eq, spriteLandsOn, wrapOffset_mod, wrapOffset_mod, State.spriteBytes]
  by_cases hr : wrapOffset 32 (s.readV y).toNat py < n.toNat
  · simp [hr]
  · simp [hr]

theorem State.drawn_draws (s : State) (x y : Reg) (n : Nibble) :
    Draws (s.spriteCovers x y n) (s.fb, false) (s.drawn x y n) := by
  have hlen : (s.spriteBytes n).length ≤ 32 := by
    rw [State.spriteBytes, Memory.readBytes_length]
    omega
  have hdraws := drawRows_draws hlen ((s.readV x).toNat % 64) ((s.readV y).toNat % 32) (s.fb, false)
  rwa [funext₂ (spriteLandsOn_spriteBytes s x y n)] at hdraws

/-- Settles O22: the loop draws each set bit on a pixel of its own, and VF is written after it, with the collision. -/
theorem drwXorsAndCollides : Obligations.DrwXorsAndCollides := by
  intro x y n s
  obtain ⟨hpixel, hhit⟩ := s.drawn_draws x y n
  refine ⟨wordIs_of_encode rfl rfl, _, rfl, hpixel, fun r hr => ?_, fun h => ?_, fun h => ?_, rfl,
    exec_frame (i := .drw x y n) rfl⟩
  · exact (State.readV_writeV ..).trans (if_neg hr)
  · have hcollides : (s.drawn x y n).2 = true := hhit.mpr (.inr h)
    exact (State.readV_writeV ..).trans (congrArg flagByte hcollides)
  · have hmisses : (s.drawn x y n).2 = false := by
      rw [Bool.eq_false_iff, Ne, hhit]
      rintro (h | ⟨px, py, hl, hlit⟩)
      · cases h
      · exact absurd ((h px py hl).symm.trans hlit) Bool.false_ne_true
    exact (State.readV_writeV ..).trans (congrArg flagByte hmisses)

/-- Settles O23: the second draw lands on the pixels of the first, and a pixel is lit for it when the first found it
off. -/
theorem drawTwiceRestores : Obligations.DrawTwiceRestores := by
  intro x y n s t h hx hy
  obtain ⟨-, t', h', hpixel, -, -, -, -, hframe⟩ := drwXorsAndCollides x y n s
  obtain rfl : t' = t := Host.Outcome.next.inj (h'.symm.trans h)
  have hi : t'.i = s.i := hframe .i (by decide)
  have hmem : ∀ a, t'.mem.readAt a = s.mem.readAt a := hframe .mem (by decide)
  have hcovers (px py : Nat) : t'.spriteCovers x y n px py = s.spriteCovers x y n px py := by
    simp only [State.spriteCovers_eq, hx, hy, hi, hmem]
  obtain ⟨-, u, hu, hpixel', -, hcollides, hmisses, -, -⟩ := drwXorsAndCollides x y n t'
  refine ⟨u, hu, fun px py => ?_, ?_, fun hlit => hmisses fun px py hl => ?_⟩
  · rw [hpixel', hpixel, hcovers, Bool.xor_assoc, Bool.xor_self, Bool.xor_false]
  · rintro ⟨px, py, hl, hoff⟩
    exact hcollides ⟨px, py, (hcovers px py).trans hl, by rw [hpixel, hl, hoff]; rfl⟩
  · rw [hcovers] at hl
    rw [hpixel, hl, hlit px py hl]
    rfl

end Sys2Proof.Machine

/-! # Keys and timers (45_input_timer.md) -/

namespace Sys2Proof.Machine

/-! ## A step while awaiting a key (R132, 40_cycle.md R90) -/

/-- The converse of `lowestKey_some`: two keys that are each the lowest are one. -/
theorem lowestKey_eq_some_iff {fresh : Word} {k : Nibble} :
    lowestKey fresh = some k ↔ fresh.getLsbD k.toNat = true ∧ ∀ j < k.toNat, fresh.getLsbD j = false := by
  refine ⟨lowestKey_some, fun ⟨hk, hbelow⟩ => ?_⟩
  cases h : lowestKey fresh with
  | none => simp [lowestKey_none.mp h] at hk
  | some d =>
    obtain ⟨hd, hbelow'⟩ := lowestKey_some h
    have hkd : ¬ d.toNat < k.toNat := fun hlt => Bool.false_ne_true ((hbelow _ hlt).symm.trans hd)
    have hdk : ¬ k.toNat < d.toNat := fun hlt => Bool.false_ne_true ((hbelow' _ hlt).symm.trans hk)
    exact congrArg some (BitVec.eq_of_toNat_eq (by omega))

theorem State.waitStep_of_no_fresh {s : State} (h : s.freshKeys = 0) : s.waitStep = { s with waitPrev := s.keys } := by
  simp [State.waitStep, lowestKey_none.mpr h]

theorem State.waitStep_of_lowest {s : State} {k : Nibble} (h : lowestKey s.freshKeys = some k) :
    s.waitStep = { s.writeV s.waitX (keyByte k) with status := .running } := by
  simp [State.waitStep, h]

theorem setStatus_frame (s : State) (st : Status) : onlyChanges [.status] s { s with status := st } := by
  intro p hp; cases p <;> simp_all [agreeOn, State.readV, State.pixelAt]

theorem keyByte_toNat (k : Nibble) : (keyByte k).toNat = k.toNat :=
  BitVec.toNat_setWidth_of_le (by decide)

/-- A step with no fresh key closes loading and remembers the latch. -/
theorem step_of_no_fresh {s : State} (hs : s.status = .awaitingKey) (h : s.freshKeys = 0) :
    step s = .next { s with waitPrev := s.keys, loadOpen := false } :=
  (step_of_awaitingKey hs).trans (congrArg _ (State.waitStep_of_no_fresh (s := s.closeLoad) h))

/-- A step with a fresh key closes loading, writes the lowest one and ends the wait. -/
theorem step_of_lowest {s : State} {k : Nibble} (hs : s.status = .awaitingKey) (h : lowestKey s.freshKeys = some k) :
    step s = .next { s.closeLoad.writeV s.waitX (keyByte k) with status := .running } :=
  (step_of_awaitingKey hs).trans (congrArg _ (State.waitStep_of_lowest (s := s.closeLoad) h))

/-! ## Ticks (60_exceptions.md R148) -/

theorem decrementTimer_toNat (b : Byte) : (decrementTimer b).toNat = b.toNat - 1 := by
  unfold decrementTimer
  split
  · exact BitVec.toNat_sub_of_le (by bv_omega)
  · omega

/-- A tick takes one off each nonzero timer, in every status. -/
theorem transact_tick_decrements (s : State) : ∃ t, transact .tick s = .next (t, .nothing) ∧
    t.dt.toNat = s.dt.toNat - 1 ∧ t.st.toNat = s.st.toNat - 1 ∧ onlyChanges [.dt, .st] s t :=
  ⟨s.tick, rfl, decrementTimer_toNat s.dt, decrementTimer_toNat s.st, tick_frame s⟩

/-- Settles O26: the step closes loading and then does the wait step, whose one test is for a lowest fresh key. -/
theorem awaitingKeyStep : Obligations.AwaitingKeyStep := by
  intro s hs
  refine ⟨fun h0 => ?_, fun k hk hbelow => ?_, transact_tick_decrements s⟩
  · have hstep := step_of_no_fresh hs h0
    exact ⟨hstep, transact_step_iff.mpr ⟨hstep, (State.stepResult_of_awaitingKey hs).symm⟩⟩
  · have hstep := step_of_lowest hs (lowestKey_eq_some_iff.mpr ⟨hk, hbelow⟩)
    refine ⟨_, hstep, transact_step_iff.mpr ⟨hstep, rfl⟩, fun r => ?_, rfl, rfl, ?_⟩
    · calc ((s.closeLoad.writeV s.waitX (keyByte k)).readV r).toNat
          = (if r = s.waitX then keyByte k else s.readV r).toNat := by rw [State.readV_writeV, State.closeLoad_readV]
        _ = if r = s.waitX then k.toNat else (s.readV r).toNat := by rw [apply_ite BitVec.toNat, keyByte_toNat]
    · exact (((closeLoad_frame s).trans (writeV_frame _ _ _)).trans (setStatus_frame _ _)).mono (by decide)

/-! ## The key instructions (R129 to R131) -/

/-- The key that a byte's low nibble selects, in Nat arithmetic. -/
theorem State.keyDown_lowNibble (s : State) (b : Byte) :
    s.keyDown (lowNibble b) = s.keys.getLsbD (b.toNat % 16) :=
  congrArg s.keys.getLsbD (lowNibble_toNat b)

/-- Settles O24: both are the skip after the advance, under the two values of one bit of the latch. -/
theorem skipOnKey : Obligations.SkipOnKey := fun x s =>
  ⟨wordIs_of_encode rfl (packXNN_eq_pattern_or 0xE x 0x9E), wordIs_of_encode rfl (packXNN_eq_pattern_or 0xE x 0xA1),
    ⟨_, rfl, advance_skipIf_skipsIff s (by rw [State.keyDown_lowNibble])⟩,
    ⟨_, rfl, advance_skipIf_skipsIff s (by rw [State.keyDown_lowNibble, Bool.not_eq_true'])⟩⟩

/-- Settles O25: the advance and the entry to the wait, neither of which tests the latch. -/
theorem waitKeyEnters : Obligations.WaitKeyEnters := fun x s =>
  ⟨wordIs_familyF x 0x0A rfl rfl, s.advance.enterWait x, rfl, rfl, rfl, rfl, State.stepResult_of_awaitingKey rfl, rfl,
    exec_frame (i := .ldVxK x) rfl⟩

/-! ## The timer instructions (R133 to R135) -/

theorem State.soundActive_iff (s : State) : s.soundActive = true ↔ s.st ≠ 0 := by
  rw [State.soundActive, decide_eq_true_iff]
  bv_omega

/-- Settles O27: each is the advance and one write, of VX or of a timer. -/
theorem timerTransfers : Obligations.TimerTransfers := fun x s =>
  ⟨wordIs_familyF x 0x07 rfl rfl, wordIs_familyF x 0x15 rfl rfl, wordIs_familyF x 0x18 rfl rfl,
    ⟨_, rfl, advance_writeV_writesOnly s x s.dt⟩,
    ⟨s.advance.setDt (s.readV x), rfl, rfl, rfl, exec_frame (i := .ldDtVx x) rfl⟩,
    ⟨s.advance.setSt (s.readV x), rfl, rfl, State.soundActive_iff _, rfl, exec_frame (i := .ldStVx x) rfl⟩⟩

end Sys2Proof.Machine

/-! # The fatal errors (60_exceptions.md) -/

namespace Sys2Proof.Machine

/-! ## Each fault at its condition (R137 to R139) -/

/-- A CALL fetched over a full stack overflows, and the word recorded is the one fetched. -/
theorem step_of_overflow {s : State} {nnn : Word} (hr : s.status = .running)
    (hd : decode s.fetchWord = some (.call nnn)) (hsp : s.sp = 16) :
    step s = .next (s.closeLoad.takeFault .stackOverflow s.fetchWord) :=
  calc step s = execCall nnn s.closeLoad := step_of_decode hr hd
    _ = .next (s.closeLoad.takeFault .stackOverflow (encode (.call nnn))) := if_pos hsp
    _ = .next (s.closeLoad.takeFault .stackOverflow s.fetchWord) := by rw [encode_of_decode hd]

/-- A RET fetched over an empty stack underflows. -/
theorem step_of_underflow {s : State} (hr : s.status = .running) (hd : decode s.fetchWord = some .ret)
    (hsp : s.sp = 0) : step s = .next (s.closeLoad.takeFault .stackUnderflow 0x00EE) :=
  (step_of_decode hr hd).trans (if_pos hsp)

/-- The kind that a running step's fault records tells which condition held. -/
theorem fault_condition_of_step_halts {s t : State} {r : FaultRecord} (hr : s.status = .running)
    (h : step s = .next t) (ht : t.status = .halted r) :
    (r.kind = .unknownInstruction ∧ decode s.fetchWord = none) ∨
    (r.kind = .stackOverflow ∧ s.sp = 16 ∧ ∃ nnn, decode s.fetchWord = some (.call nnn)) ∨
    (r.kind = .stackUnderflow ∧ s.sp = 0 ∧ decode s.fetchWord = some .ret) := by
  cases hd : decode s.fetchWord with
  | none =>
    rw [step_of_unknown hr hd] at h
    cases h
    cases ht
    exact .inl ⟨rfl, rfl⟩
  | some i =>
    rw [step_of_decode hr hd] at h
    obtain hst | ⟨x, -, rfl⟩ | ⟨nnn, rfl, hsp, rfl⟩ | ⟨rfl, hsp, rfl⟩ := exec_status_cases h
    · cases (hst.trans hr).symm.trans ht
    · cases ht
    · cases ht
      exact .inr (.inl ⟨rfl, hsp, nnn, rfl⟩)
    · cases ht
      exact .inr (.inr ⟨rfl, hsp, rfl⟩)

/-- Settles O32: the record names the word and its address since a fault undoes the step (O31), its kind tells the
condition, and each condition is one case of the step. -/
theorem exactlyThreeFaults : Obligations.ExactlyThreeFaults := by
  refine ⟨⟨rfl, rfl, rfl⟩, fun s hr => ⟨fun t r h ht => ?_, fun hn => ?_, fun nnn hd hsp => ?_, fun hd hsp => ?_⟩⟩
  · obtain ⟨-, hword, hfpc, -⟩ := faultUndoesTheStep s t r hr h ht
    exact ⟨hword, hfpc, fault_condition_of_step_halts hr h ht⟩
  · exact ⟨_, step_of_unknown hr hn, rfl⟩
  · exact ⟨_, step_of_overflow hr hd hsp, rfl⟩
  · exact ⟨_, step_of_underflow hr hd hsp, rfl⟩

/-! ## No transaction stops the model, and ticks (R140, R148, R149) -/

/-- Settles O36: only a CALL or RET with sp above 16 gives a step no next state, and the other transactions always
answer. -/
theorem everyTransactionAnswers : Obligations.EveryTransactionAnswers :=
  fun _ tr hsp => transact_answers tr hsp

/-- Settles O40: a tick is one decrement of each timer, and no status is looked at. -/
theorem tickDecrements : Obligations.TickDecrements :=
  transact_tick_decrements

end Sys2Proof.Machine

/-! # What reset() leaves (10_state.md R37, R38, 70_reset_and_hazards.md R156) -/

namespace Sys2Proof.Machine

/-! ## Memory after reset: FONT at FONT_BASE, around the end of memory (20_memory.md R54) -/

/-- Byte `j` of FONT, and past its 80 bytes the 0x00 that fills the rest of memory. -/
def fontByte (c : Config) (j : Nat) : Byte :=
  if h : j < 80 then (c.font[j / 5]'(by omega))[j % 5]'(by omega) else 0

/-- Glyphs are 5 bytes, one after another (R38). -/
theorem fontByte_glyph (c : Config) (g : Fin 16) (k : Fin 5) : fontByte c (5 * g.val + k.val) = c.font[g][k] := by
  have hlt : 5 * g.val + k.val < 80 := by omega
  have hg : (5 * g.val + k.val) / 5 = g.val := by omega
  have hk : (5 * g.val + k.val) % 5 = k.val := by omega
  simp [fontByte, hlt, hg, hk]

theorem fontByte_of_le (c : Config) {j : Nat} (h : 80 ≤ j) : fontByte c j = 0 :=
  dif_neg (Nat.not_lt.mpr h)

/-- After reset an address holds the FONT byte as far on as the address lies past FONT_BASE. -/
theorem Memory.readAt_resetImage (c : Config) (a : Nat) :
    (Memory.resetImage c).readAt a = fontByte c (wrapOffset memSize c.fontBase.toNat a) :=
  Memory.read_resetImage c (a % memSize) (Nat.mod_lt a (by decide))

theorem Memory.readAt_resetImage_glyph (c : Config) (g : Fin 16) (k : Fin 5) :
    (Memory.resetImage c).readAt (c.fontBase.toNat + 5 * g.val + k.val) = c.font[g][k] := by
  have hlt : 5 * g.val + k.val < memSize := by simp only [memSize]; omega
  rw [Memory.readAt_resetImage, Nat.add_assoc, (wrapOffset_eq_iff hlt c.fontBase.toNat _).mpr rfl, fontByte_glyph]

theorem Memory.readAt_resetImage_outside (c : Config) (a : Nat)
    (h : ∀ j < 80, a % memSize ≠ (c.fontBase.toNat + j) % memSize) : (Memory.resetImage c).readAt a = 0 := by
  have hlies : c.fontBase.toNat + wrapOffset memSize c.fontBase.toNat a ≡ a [MOD memSize] :=
    add_wrapOffset_modEq (by decide) c.fontBase.toNat a
  have hpast : 80 ≤ wrapOffset memSize c.fontBase.toNat a :=
    Nat.le_of_not_lt fun hin => h _ hin hlies.symm
  rw [Memory.readAt_resetImage, fontByte_of_le c hpast]

/-! ## Registers, stack and framebuffer after reset -/

theorem State.resetCore_readV (s : State) (r : Reg) : s.resetCore.readV r = 0 :=
  Vector.getElem_replicate r.isLt

theorem State.resetCore_stack_getElem (s : State) (k : Fin 16) : s.resetCore.stack[k] = 0 :=
  Vector.getElem_replicate k.isLt

/-- Settles O43: the memory is the reset image, read as the font and 0x00 around it; every other field but the latch is
a constant. -/
theorem resetSetsEverything : Obligations.ResetSetsEverything := by
  intro s
  refine ⟨s.resetCore, rfl, s.resetCore_readV, rfl, rfl, rfl, s.resetCore_stack_getElem, rfl, rfl,
    Framebuffer.pixelAt_blank, ?font, ?elsewhere, rfl, rfl, rfl, rfl, rfl, rfl⟩
  case font =>
    rw [State.resetCore_mem]
    exact Memory.readAt_resetImage_glyph s.cfg
  case elsewhere =>
    rw [State.resetCore_mem]
    exact Memory.readAt_resetImage_outside s.cfg

end Sys2Proof.Machine

/-! # The model's own choices: canonical memory, sp above 16, the draw and the reset state (log entries 1, 2, 3, 6, 10) -/

namespace Sys2Proof.Machine

/-! ## Canonical memories that read the same are the same list (log entry 10) -/

theorem Memory.read_head (a : Nat) (b : Byte) (m : Memory) : Memory.read ((a, b) :: m) a = b := by
  rw [Memory.read_cons, if_pos rfl]

/-- An address that does not read as unlisted is no lower than the first listed one. -/
theorem Memory.head_le_of_read_ne {lo a c : Nat} {b : Byte} {m : Memory}
    (hm : Memory.wfFrom lo ((a, b) :: m) = true) (hc : Memory.read ((a, b) :: m) c ≠ Memory.unlisted c) : a ≤ c := by
  obtain ⟨-, hlt, hb, htail⟩ := Memory.wfFrom_cons.mp hm
  have hfrom : Memory.wfFrom a ((a, b) :: m) = true := Memory.wfFrom_cons.mpr ⟨le_rfl, hlt, hb, htail⟩
  exact Nat.le_of_not_lt fun hca => hc (Memory.read_of_lt hfrom hca)

/-- Behind one cell, tails of higher addresses agree wherever the whole memories do: up to the cell neither lists
anything. -/
theorem Memory.read_tails_eq {a c : Nat} {b : Byte} {m m' : Memory} (hm : Memory.wfFrom (a + 1) m = true)
    (hm' : Memory.wfFrom (a + 1) m' = true) (h : Memory.read ((a, b) :: m) c = Memory.read ((a, b) :: m') c) :
    m.read c = m'.read c := by
  by_cases hc : c = a
  · rw [Memory.read_of_lt hm (by omega), Memory.read_of_lt hm' (by omega)]
  · rwa [Memory.read_cons, Memory.read_cons, if_neg hc, if_neg hc] at h

/-- The first cell of each memory is seen in a read of the other, so the first cells are one, and so on down the
lists. -/
theorem Memory.eq_of_read_eq {lo : Nat} {m m' : Memory} (hm : Memory.wfFrom lo m = true)
    (hm' : Memory.wfFrom lo m' = true) (h : ∀ c < memSize, m.read c = m'.read c) : m = m' := by
  induction m generalizing lo m' with
  | nil =>
    cases m' with
    | nil => rfl
    | cons cell' tail' =>
      obtain ⟨-, hlt', hb', -⟩ := Memory.wfFrom_cons.mp hm'
      exact absurd ((Memory.read_head ..).symm.trans (h _ hlt').symm) hb'
  | cons cell tail ih =>
    obtain ⟨a, b⟩ := cell
    obtain ⟨-, hlt, hb, htail⟩ := Memory.wfFrom_cons.mp hm
    have hread : b = m'.read a := (Memory.read_head ..).symm.trans (h a hlt)
    cases m' with
    | nil => exact absurd hread hb
    | cons cell' tail' =>
      obtain ⟨a', b'⟩ := cell'
      obtain ⟨-, hlt', hb', htail'⟩ := Memory.wfFrom_cons.mp hm'
      have hread' : Memory.read ((a, b) :: tail) a' = b' := (h a' hlt').trans (Memory.read_head ..)
      obtain rfl : a = a' := le_antisymm (Memory.head_le_of_read_ne hm (hread'.trans_ne hb'))
        (Memory.head_le_of_read_ne hm' (hread.symm.trans_ne hb))
      obtain rfl : b = b' := hread.trans (Memory.read_head ..)
      rw [ih htail htail' fun c hc => Memory.read_tails_eq htail htail' (h c hc)]

/-- Settles O52: both memories are canonical from address 0 on. -/
theorem canonicalMemoryIsUnique : Obligations.CanonicalMemoryIsUnique :=
  fun _ _ hm hm' h => Memory.eq_of_read_eq hm hm' h

/-! ## CALL and RET with sp above 16 (log entry 6) -/

theorem exec_call_stops (nnn : Word) {s : State} (h : 16 < s.sp.toNat) :
    exec (.call nnn) s = .fault .noSuchStackEntry := by
  obtain ⟨h16, -⟩ | ⟨hlt, -⟩ | ⟨-, e⟩ := execCall_cases nnn s
  · simp [h16] at h
  · omega
  · exact e

theorem exec_ret_stops {s : State} (h : 16 < s.sp.toNat) : exec .ret s = .fault .noSuchStackEntry := by
  obtain ⟨h0, -⟩ | ⟨-, hlt, -⟩ | ⟨-, e⟩ := execRet_cases s
  · simp [h0] at h
  · omega
  · exact e

/-- Settles O8: the other outcomes of CALL and of RET need sp at most 16. -/
theorem spAboveSixteenStops : Obligations.SpAboveSixteenStops :=
  fun nnn _ h => ⟨exec_call_stops nnn h, exec_ret_stops h⟩

/-! ## The draw of CXNN (R115, log entry 1) -/

/-- Settles O15: one register write after the advance and the count of the draw. -/
theorem rndMasksTheDraw : Obligations.RndMasksTheDraw := fun x nn s =>
  ⟨wordIs_of_encode rfl rfl, _, rfl, fun r => s.advance.countDraw.readV_writeV x r _, rfl, rfl,
    (exec_frame (i := .rnd x nn) rfl).mono (by simp [writtenParts])⟩

/-! ## The state that a reset leaves (log entries 1, 2, 3) -/

/-- A reset differs from `State.reset` only in what it keeps: the parameters (and so the memory image), the latch and
the draw counter. -/
theorem State.resetCore_eq_reset {s : State} (hcfg : s.cfg = Config.default) (hkeys : s.keys = 0)
    (hdraws : s.draws = 0) : s.resetCore = State.reset := by
  rw [State.resetCore, hcfg, hkeys, hdraws, Memory.resetImage_default, State.reset]

/-- Settles O44: a reset answers `resetCore`, which keeps the counter and the parameters. -/
theorem resetStateIsAReset : Obligations.ResetStateIsAReset := by
  refine ⟨fun s => ⟨s.resetCore, rfl, s.resetCore_draws, s.resetCore_cfg⟩, fun s hcfg hkeys hdraws => ?_⟩
  rw [← State.resetCore_eq_reset hcfg hkeys hdraws]
  rfl

end Sys2Proof.Machine
